-- ==== Sys2Proof/Word.lean ====
section
/-! DEFINITION. The data types of BCDTC's registers, ports and parameters: the digit, the time value, the named
codes of the one- and two-bit registers, a row of four display positions, and the input vector. Types only: every
function over them that a test could show wrong stands in a file of Machine/. -/

namespace Sys2Proof

/-- A digit register, a SNAP entry or the DIGIT port: one decimal digit as its 4-bit unsigned value (30_encoding.md
R48; the width is decision D10). The six codes above 9 are representable and illegal (R49). -/
abbrev Digit := BitVec 4

/-- The six digit registers by name (10_state.md R17). -/
inductive DigitName where
  | ht | hu | mt | mu | st | su
deriving DecidableEq, Repr

/-- A time value (HT, HU, MT, MU, ST, SU), 00_scope.md R12: the contents of the digit register file (10_state.md
R17). It need not be a valid time. -/
structure Time where
  ht : Digit
  hu : Digit
  mt : Digit
  mu : Digit
  st : Digit
  su : Digit
deriving DecidableEq, Repr

/-- The contents of PAGE (10_state.md R21). Both codes of the one bit are named: 0 is SecondsView, 1 is HoursView
(30_encoding.md R51). -/
inductive Page where
  | secondsView | hoursView
deriving DecidableEq, Repr

/-- The contents of DIR (10_state.md R22): 0 is Decrement, 1 is Increment (30_encoding.md R51). -/
inductive Direction where
  | decrement | increment
deriving DecidableEq, Repr

/-- The contents of PH (10_state.md R27): 0b00 WRITE, 0b01 HOLD, 0b10 OFF, and the reserved code 0b11. All four codes
of the two bits are named, so no value of the register is lost. -/
inductive Phase where
  | write | hold | off | reserved
deriving DecidableEq, Repr

/-- The three registers a mode edge writes together, PAGE, DIR and IND (10_state.md R21 to R23): a row of the decision
table of 41_mode.md R87, and the type of the parameter RESET_MODE (00_scope.md R8). `ind = true` is on. -/
structure Mode where
  page : Page
  dir  : Direction
  ind  : Bool
deriving DecidableEq, Repr

/-- One value for each of the four display positions 0 to 3 (00_scope.md R15, "position"). -/
structure Quad (α : Type) where
  p0 : α
  p1 : α
  p2 : α
  p3 : α
deriving DecidableEq, Repr

/-- The parameter POS_MAP: for each page, the digit each position shows (00_scope.md R8, 30_encoding.md R54). -/
structure PosMap where
  secondsView : Quad DigitName
  hoursView   : Quad DigitName
deriving DecidableEq, Repr

/-- The input vector of one cycle, the levels of the ports RST, TICK, CHANGE_TIME and UP_DOWN (10_state.md R31). -/
structure Input where
  rst        : Bool
  tick       : Bool
  changeTime : Bool
  upDown     : Bool
deriving DecidableEq, Repr, Inhabited

/-- The values on the output ports IND, SEL[3:0] and DIGIT[3:0] (10_state.md R32). -/
structure Outputs where
  ind   : Bool
  sel   : BitVec 4
  digit : Digit
deriving DecidableEq, Repr

end Sys2Proof
end

