-- ==== Sys2Proof/Config.lean ====
section
/-! DEFINITION. The implementation parameters of BCDTC (00_scope.md R8) and the free value of the model: the input
vector of a cycle for which no stimulus was placed. -/

namespace Sys2Proof

/-- The configuration parameters of 00_scope.md R8, fixed when the block is built (10_state.md R30). The model takes
them as data, so that a statement ranges over every configuration (assumption 1). -/
structure Params where
  /-- N_TICKS: raw ticks per logical second. OPEN in the spec, an integer ≥ 1. -/
  nTicks : Nat
  /-- SETTLE_CYCLES, written S: clock cycles a position is held enabled. OPEN in the spec, an integer ≥ 1. -/
  settle : Nat
  /-- SEED: the time value loaded at reset. -/
  seed : Time
  /-- RESET_MODE: (PAGE, DIR, IND) loaded at reset. -/
  resetMode : Mode
  /-- POS_MAP: which digit each position shows, per page. -/
  posMap : PosMap
deriving DecidableEq, Repr

/-- The default SEED, 23:59:30 (00_scope.md R8). -/
def Config.defaultSeed : Time := ⟨2, 3, 5, 9, 3, 0⟩

/-- The default RESET_MODE, (SecondsView, Increment, on) (00_scope.md R8). -/
def Config.defaultResetMode : Mode := ⟨.secondsView, .increment, true⟩

/-- The default POS_MAP, the table of 30_encoding.md R54. -/
def Config.defaultPosMap : PosMap where
  secondsView := ⟨.mt, .mu, .st, .su⟩
  hoursView := ⟨.ht, .hu, .mt, .mu⟩

/-- The configuration of `State.reset`. SEED, RESET_MODE and POS_MAP are the spec's defaults (00_scope.md R8).
DESIGN CHOICE, unsafe: N_TICKS = 2 and S = 2, which the spec leaves OPEN; they are the values of the fault vectors
of 95_test_vectors.md part F, and the least with which every row can be selected (assumption 2). -/
def Config.defaultParams : Params where
  nTicks := 2
  settle := 2
  seed := Config.defaultSeed
  resetMode := Config.defaultResetMode
  posMap := Config.defaultPosMap

/-- FREE VALUE, safe (DESIGN CHOICE, assumption 4): the input vector of cycle `t` when the state holds no placed
stimulus for it. The environment "is the free input of every step" (00_scope.md R7); nothing constrains it. -/
opaque Config.freeInput : Nat → Input

end Sys2Proof
end

