-- ==== Sys2Proof/Machine/Digits.lean ====
section
/-! DEFINITION. Time values and display positions: validity, the number of seconds, the TIME word, the codes of the
named registers, and the digits a page shows. -/

namespace Sys2Proof

/-- D[n]: the digit register of that name (10_state.md R17). -/
def Time.digit (t : Time) : DigitName → Digit
  | .ht => t.ht
  | .hu => t.hu
  | .mt => t.mt
  | .mu => t.mu
  | .st => t.st
  | .su => t.su

/-- A valid time value (00_scope.md R12; the legal encodings are the table of 30_encoding.md R49). -/
def Time.valid (t : Time) : Bool :=
  decide (t.hu.toNat ≤ 9 ∧ t.mu.toNat ≤ 9 ∧ t.su.toNat ≤ 9 ∧ t.mt.toNat ≤ 5 ∧ t.st.toNat ≤ 5 ∧ t.ht.toNat ≤ 2 ∧
    (t.ht.toNat = 2 → t.hu.toNat ≤ 3))

/-- secs, the number of seconds of a time value (00_scope.md R12). -/
def Time.secs (t : Time) : Nat :=
  (10 * t.ht.toNat + t.hu.toNat) * 3600 + (10 * t.mt.toNat + t.mu.toNat) * 60 + 10 * t.st.toNat + t.su.toNat

/-- TIME[23:0] = (HT, HU, MT, MU, ST, SU), HT in bits 23:20: the notation of the test vectors (30_encoding.md R50,
20_memory.md R38). No register or port holds it. -/
def Time.word (t : Time) : BitVec 24 :=
  BitVec.ofNat 24 (t.ht.toNat * 2 ^ 20 + t.hu.toNat * 2 ^ 16 + t.mt.toNat * 2 ^ 12 + t.mu.toNat * 2 ^ 8 +
    t.st.toNat * 2 ^ 4 + t.su.toNat)

/-- The time value that a TIME word writes down (30_encoding.md R50). -/
def Time.ofWord (w : BitVec 24) : Time where
  ht := BitVec.ofNat 4 (w.toNat / 2 ^ 20)
  hu := BitVec.ofNat 4 (w.toNat / 2 ^ 16)
  mt := BitVec.ofNat 4 (w.toNat / 2 ^ 12)
  mu := BitVec.ofNat 4 (w.toNat / 2 ^ 8)
  st := BitVec.ofNat 4 (w.toNat / 2 ^ 4)
  su := BitVec.ofNat 4 w.toNat

/-- The entry of a display position. -/
def Quad.get {α : Type} (q : Quad α) (p : Fin 4) : α :=
  match p with
  | 0 => q.p0
  | 1 => q.p1
  | 2 => q.p2
  | 3 => q.p3

/-- The same function at each of the four positions. -/
def Quad.map {α β : Type} (f : α → β) (q : Quad α) : Quad β :=
  ⟨f q.p0, f q.p1, f q.p2, f q.p3⟩

/-- The entries of positions 0 to 3 in that order. -/
def Quad.toList {α : Type} (q : Quad α) : List α :=
  [q.p0, q.p1, q.p2, q.p3]

/-- POS_MAP's row for a page (30_encoding.md R54). -/
def PosMap.row (m : PosMap) : Page → Quad DigitName
  | .secondsView => m.secondsView
  | .hoursView => m.hoursView

/-- The four digits a page shows: minutes and seconds, or hours and minutes (42_display.md R101, 90_conflicts.md C8). -/
def Page.digits : Page → List DigitName
  | .secondsView => [.mt, .mu, .st, .su]
  | .hoursView => [.ht, .hu, .mt, .mu]

/-- resolve(page, D): the four digit values a refresh cycle shows (42_display.md R101, 30_encoding.md R54). -/
def resolve (m : PosMap) (page : Page) (t : Time) : Quad Digit :=
  (m.row page).map t.digit

/-- The code of PAGE: 0 = SecondsView, 1 = HoursView (30_encoding.md R51). -/
def Page.code : Page → BitVec 1
  | .secondsView => 0
  | .hoursView => 1

/-- The code of DIR: 0 = Decrement, 1 = Increment (30_encoding.md R51). -/
def Direction.code : Direction → BitVec 1
  | .decrement => 0
  | .increment => 1

/-- The code of PH: 0b00 WRITE, 0b01 HOLD, 0b10 OFF, 0b11 reserved (10_state.md R27). -/
def Phase.code : Phase → BitVec 2
  | .write => 0b00
  | .hold => 0b01
  | .off => 0b10
  | .reserved => 0b11

/-- The phase of a PH code. -/
def Phase.ofCode (c : BitVec 2) : Phase :=
  if c = 0b00 then .write else if c = 0b01 then .hold else if c = 0b10 then .off else .reserved

/-- onehot4(p): the 4-bit value with only bit p set (00_scope.md R11). -/
def onehot4 (p : Fin 4) : BitVec 4 :=
  1#4 <<< p.val

/-- ceil(log2 n) for n ≥ 1 (10_state.md R16). -/
def ceilLog2 (n : Nat) : Nat :=
  if n ≤ 1 then 0 else Nat.log2 (n - 1) + 1

/-- ACC_W = max(1, ceil(log2(N_TICKS))), the width of ACC (10_state.md R16). -/
def Params.accWidth (p : Params) : Nat :=
  max 1 (ceilLog2 p.nTicks)

/-- CNT_W = max(1, ceil(log2(S))), the width of CNT (10_state.md R16). -/
def Params.cntWidth (p : Params) : Nat :=
  max 1 (ceilLog2 p.settle)

/-- P = 4*(S+2), the refresh period in cycles (42_display.md R110). -/
def Params.period (p : Params) : Nat :=
  4 * (p.settle + 2)

/-- IN[3:0] = (RST, TICK, CHANGE_TIME, UP_DOWN), the input vector of a cycle as one number (30_encoding.md R65). -/
def Input.vec (i : Input) : Nat :=
  8 * i.rst.toNat + 4 * i.tick.toNat + 2 * i.changeTime.toNat + i.upDown.toNat

/-- The input vector that an IN number writes down, its bits 3 to 0 (30_encoding.md R65). -/
def Input.ofVec (v : Nat) : Input where
  rst := v.testBit 3
  tick := v.testBit 2
  changeTime := v.testBit 1
  upDown := v.testBit 0

end Sys2Proof
end

