-- ==== Sys2Proof/Machine/Flags.lean ====
section
/-! DEFINITION. The flags of BCDTC. Its only flags are PAGE, DIR and IND, which a mode edge writes together
(41_mode.md R92: "the block's only source of its flags"). Here: the decision table and the edge that triggers it. -/

namespace Sys2Proof.Machine

/-- The PAGE column of the decision table: 1 is HoursView (41_mode.md R87). -/
def pageOfLevel (changeTime : Bool) : Page :=
  if changeTime then .hoursView else .secondsView

/-- The Direction column of the decision table: 1 is Increment (41_mode.md R87). -/
def dirOfLevel (upDown : Bool) : Direction :=
  if upDown then .increment else .decrement

/-- The row of the decision table for the two input levels (41_mode.md R87). The indicator column is UP_DOWN's level. -/
def decisionRow (changeTime upDown : Bool) : Mode :=
  ⟨pageOfLevel changeTime, dirOfLevel upDown, upDown⟩

/-- The four rows of the decision table, in its order (41_mode.md R87). -/
def decisionTable : List Mode :=
  [decisionRow true true, decisionRow true false, decisionRow false true, decisionRow false false]

/-- EDGE = (CHANGE_TIME ≠ PCT) or (UP_DOWN ≠ PUD); a change of both in one cycle is one edge (41_mode.md R89). -/
def modeEdge (pct pud changeTime upDown : Bool) : Bool :=
  (changeTime != pct) || (upDown != pud)

end Sys2Proof.Machine
end

