-- ==== Sys2Proof/Syntax.lean ====
section
/-! DEFINITION. The operations of BCDTC: one constructor for each row of spec/opcode_table.json (30_encoding.md R60).
BCDTC has no instruction words; a row is selected in a cycle by its family's decode word (R55). -/

namespace Sys2Proof

/-- The 16 operations of 30_encoding.md R60. A constructor's arguments are the bits of its decode word that the row's
mask ignores, so that a decoded row keeps its whole word (assumption 7). Of them only the CT and UD bits of MODE_HOLD
are operands (R64); every other operand is read from the state or the inputs. -/
inductive Instr where
  /-- RESET, RSTW = 1 (70_reset_and_hazards.md R139). -/
  | reset
  /-- CTR_IDLE, CTR = 00xx (40_counter.md R69). -/
  | ctrIdle (accLast dir : Bool)
  /-- TICK_COUNT, CTR = 010x (40_counter.md R70). -/
  | tickCount (dir : Bool)
  /-- ADJUST_DEC, CTR = 0110 (40_counter.md R72). -/
  | adjustDec
  /-- ADJUST_INC, CTR = 0111 (40_counter.md R71). -/
  | adjustInc
  /-- MODE_HOLD, MODE = 00xx (41_mode.md R91); `ct` and `ud` are the sampled levels (30_encoding.md R58). -/
  | modeHold (ct ud : Bool)
  /-- MODE_SECONDS_DEC, MODE = 0100 (41_mode.md R95). -/
  | modeSecondsDec
  /-- MODE_SECONDS_INC, MODE = 0101 (41_mode.md R94). -/
  | modeSecondsInc
  /-- MODE_HOURS_DEC, MODE = 0110 (41_mode.md R93). -/
  | modeHoursDec
  /-- MODE_HOURS_INC, MODE = 0111 (41_mode.md R92). -/
  | modeHoursInc
  /-- MUX_WRITE, MUX = 0xx00 (42_display.md R102). -/
  | muxWrite (last wrap : Bool)
  /-- MUX_HOLD_STAY, MUX = 00x01 (42_display.md R103). -/
  | muxHoldStay (wrap : Bool)
  /-- MUX_HOLD_END, MUX = 01x01 (42_display.md R104). -/
  | muxHoldEnd (wrap : Bool)
  /-- MUX_OFF_NEXT, MUX = 0x010 (42_display.md R105). -/
  | muxOffNext (last : Bool)
  /-- MUX_OFF_WRAP, MUX = 0x110 (42_display.md R106). -/
  | muxOffWrap (last : Bool)
  /-- MUX_RESERVED, MUX = 0xx11 (42_display.md R107). -/
  | muxReserved (last wrap : Bool)
deriving DecidableEq, Repr

end Sys2Proof
end

