-- ==== Sys2Proof/WellFormed.lean ====
section
/-! DEFINITION. What is well-formed: a configuration (00_scope.md R10) and an operation. -/

namespace Sys2Proof

/-- A row of POS_MAP maps the four positions bijectively onto a page's four digits (00_scope.md R10): every position
shows a digit of the page, and every digit of the page is shown. -/
def PosMap.bijectiveOn (m : PosMap) (page : Page) : Bool :=
  (m.row page).toList.all (fun n => page.digits.contains n) && page.digits.all (fun n => (m.row page).toList.contains n)

/-- A well-formed configuration (00_scope.md R10): N_TICKS ≥ 1, S ≥ 1, SEED a valid time, RESET_MODE a row of the
decision table, POS_MAP a bijection onto each page's digits. -/
def Params.wellFormed (p : Params) : Bool :=
  decide (1 ≤ p.nTicks) && decide (1 ≤ p.settle) && p.seed.valid && Machine.decisionTable.contains p.resetMode &&
    p.posMap.bijectiveOn .secondsView && p.posMap.bijectiveOn .hoursView

/-- Every operation is well-formed: a row has no immediate and no operand field with an illegal value (30_encoding.md
R63, R64); its arguments are single bits that the row's mask leaves open (R60). -/
def Instr.wellFormed : Instr → Bool
  | .reset => true
  | .ctrIdle _ _ => true
  | .tickCount _ => true
  | .adjustDec => true
  | .adjustInc => true
  | .modeHold _ _ => true
  | .modeSecondsDec => true
  | .modeSecondsInc => true
  | .modeHoursDec => true
  | .modeHoursInc => true
  | .muxWrite _ _ => true
  | .muxHoldStay _ => true
  | .muxHoldEnd _ => true
  | .muxOffNext _ => true
  | .muxOffWrap _ => true
  | .muxReserved _ _ => true

end Sys2Proof
end

