-- ==== Sys2Proof/Decode.lean ====
section
/-! DEFINITION. The operation map of 30_encoding.md R60 as a table of match and mask, the decoder that reads it, the
encoder written from the same table, and the decoding of a word whose format is not given. -/

namespace Sys2Proof

/-- The four decode words (30_encoding.md R55 to R59). -/
inductive Format where
  | rstw | ctr | mode | mux
deriving DecidableEq, Repr

/-- The fixed width of a decode word in bits (30_encoding.md R63). -/
def Format.width : Format → Nat
  | .rstw => 1
  | .ctr => 4
  | .mode => 4
  | .mux => 5

/-- Why a word is no operation of its format. -/
inductive DecodeError where
  /-- The word has a bit above its format's width (30_encoding.md R63). -/
  | tooWide (f : Format) (w : Nat)
  /-- No row of the format matches: only words with their RST bit 1 (0 for RSTW) (30_encoding.md R61). -/
  | noRow (f : Format) (w : Nat)
deriving DecidableEq, Repr

/-- A row of the operation map (30_encoding.md R60): its match and mask, and the operation that a matching word is. -/
structure Row where
  format  : Format
  pattern : Nat
  mask    : Nat
  op      : Nat → Instr

/-- The operation map, in the order of spec/opcode_table.json (30_encoding.md R60). -/
def operationMap : List Row :=
  [ ⟨.rstw, 0b1, 0b1, fun _ => .reset⟩,
    ⟨.ctr, 0b0000, 0b1100, fun w => .ctrIdle (w.testBit 1) (w.testBit 0)⟩,
    ⟨.ctr, 0b0100, 0b1110, fun w => .tickCount (w.testBit 0)⟩,
    ⟨.ctr, 0b0110, 0b1111, fun _ => .adjustDec⟩,
    ⟨.ctr, 0b0111, 0b1111, fun _ => .adjustInc⟩,
    ⟨.mode, 0b0000, 0b1100, fun w => .modeHold (w.testBit 1) (w.testBit 0)⟩,
    ⟨.mode, 0b0100, 0b1111, fun _ => .modeSecondsDec⟩,
    ⟨.mode, 0b0101, 0b1111, fun _ => .modeSecondsInc⟩,
    ⟨.mode, 0b0110, 0b1111, fun _ => .modeHoursDec⟩,
    ⟨.mode, 0b0111, 0b1111, fun _ => .modeHoursInc⟩,
    ⟨.mux, 0b00000, 0b10011, fun w => .muxWrite (w.testBit 3) (w.testBit 2)⟩,
    ⟨.mux, 0b00001, 0b11011, fun w => .muxHoldStay (w.testBit 2)⟩,
    ⟨.mux, 0b01001, 0b11011, fun w => .muxHoldEnd (w.testBit 2)⟩,
    ⟨.mux, 0b00010, 0b10111, fun w => .muxOffNext (w.testBit 3)⟩,
    ⟨.mux, 0b00110, 0b10111, fun w => .muxOffWrap (w.testBit 3)⟩,
    ⟨.mux, 0b00011, 0b10011, fun w => .muxReserved (w.testBit 3) (w.testBit 2)⟩ ]

/-- A word selects a row of its format when `(word & mask) == match` (30_encoding.md R55). -/
def Row.selects (row : Row) (f : Format) (w : Nat) : Bool :=
  decide (row.format = f) && (w &&& row.mask == row.pattern)

/-- The operation that a decode word selects, or the reason it selects none. Total on every number. -/
def decodeWord (f : Format) (w : Nat) : Except DecodeError Instr :=
  if w < 2 ^ f.width then
    match operationMap.find? (fun row => row.selects f w) with
    | some row => .ok (row.op w)
    | none => .error (.noRow f w)
  else .error (.tooWide f w)

/-- The format of an operation's row (30_encoding.md R60). -/
def Instr.format : Instr → Format
  | .reset => .rstw
  | .ctrIdle _ _ | .tickCount _ | .adjustDec | .adjustInc => .ctr
  | .modeHold _ _ | .modeSecondsDec | .modeSecondsInc | .modeHoursDec | .modeHoursInc => .mode
  | .muxWrite _ _ | .muxHoldStay _ | .muxHoldEnd _ | .muxOffNext _ | .muxOffWrap _ | .muxReserved _ _ => .mux

/-- The decode word of an operation, field by field: CTR = (RST, TICK, ACCLAST, DIR), MODE = (RST, EDGE, CT, UD),
MUX = (RST, LAST, WRAP, PH) (30_encoding.md R56 to R60). -/
def encode : Instr → Nat
  | .reset => 0b1
  | .ctrIdle accLast dir => 2 * accLast.toNat + dir.toNat
  | .tickCount dir => 0b0100 + dir.toNat
  | .adjustDec => 0b0110
  | .adjustInc => 0b0111
  | .modeHold ct ud => 2 * ct.toNat + ud.toNat
  | .modeSecondsDec => 0b0100
  | .modeSecondsInc => 0b0101
  | .modeHoursDec => 0b0110
  | .modeHoursInc => 0b0111
  | .muxWrite last wrap => 8 * last.toNat + 4 * wrap.toNat
  | .muxHoldStay wrap => 4 * wrap.toNat + 0b01
  | .muxHoldEnd wrap => 0b01000 + 4 * wrap.toNat + 0b01
  | .muxOffNext last => 8 * last.toNat + 0b10
  | .muxOffWrap last => 8 * last.toNat + 0b00110
  | .muxReserved last wrap => 8 * last.toNat + 4 * wrap.toNat + 0b11

/-- The formats a table word of `nbits` bits can have. The widths 1, 4 and 5 name theirs; a row's bits in whole bytes
are 8 for every row, and name none. -/
def tableFormats (nbits : Nat) : List Format :=
  match nbits with
  | 1 => [.rstw]
  | 4 => [.ctr, .mode]
  | 5 => [.mux]
  | _ => [.rstw, .ctr, .mode, .mux]

/-- The operation that the decoder reads from a table word whose format is not given. DESIGN CHOICE (assumption 8):
words of different formats share numbers, so the first row of the table whose match IS the number (every ignored bit
0) is taken; where there is none, the first format that decodes it. -/
def decodeTableWord (nbits w : Nat) : Option Instr :=
  let formats := tableFormats nbits
  match operationMap.find? (fun row => formats.contains row.format && row.pattern == w) with
  | some row => (decodeWord row.format w).toOption
  | none => formats.findSome? (fun f => (decodeWord f w).toOption)

end Sys2Proof
end

