-- ==== Sys2Proof/Machine/State.lean ====
section
/-! DEFINITION. The state of BCDTC (10_state.md R16), the faults and refusals of the model (60_exceptions.md R122,
R123), the state before the first reset and the state after it. -/

namespace Sys2Proof.Machine

/-- The registers the counter family writes (43_cycle.md R112): the six digit registers (10_state.md R17) and ACC
(R20). ACC is a count; its width ACC_W follows from N_TICKS (assumption 6). -/
structure CounterRegs where
  time : Time
  acc  : Nat
deriving DecidableEq, Repr

/-- The registers the mode family writes: PAGE, DIR and IND (10_state.md R21 to R23) and the levels of CHANGE_TIME and
UP_DOWN in the previous cycle, PCT and PUD (R25). -/
structure ModeRegs where
  mode : Mode
  pct  : Bool
  pud  : Bool
deriving DecidableEq, Repr

/-- The registers the display family writes: the sequencer POS, PH and CNT (10_state.md R27) and SNAP (R28). CNT is a
count; its width CNT_W follows from S (assumption 6). -/
structure DisplayRegs where
  pos  : Fin 4
  ph   : Phase
  cnt  : Nat
  snap : Quad Digit
deriving DecidableEq, Repr

/-- The registers of 10_state.md R16, exactly, grouped by the family that writes them (43_cycle.md R112). -/
structure Regs where
  ctr  : CounterRegs
  mode : ModeRegs
  disp : DisplayRegs
deriving DecidableEq, Repr

/-- The state of the model: the registers, with `none` the spec's own NOVALUE before the first reset (10_state.md R34);
beside them the configuration, which nothing writes (R30), and the environment's side of the ports. -/
structure State where
  /-- The configuration (00_scope.md R8). No step changes it. -/
  params : Params
  /-- The registers; `none` is NOVALUE (10_state.md R34). -/
  regs : Option Regs
  /-- The MODEL's own: the input vectors placed for this cycle and the next ones, the first for this cycle. -/
  inputs : List Input
  /-- The MODEL's own: the number t of this cycle (00_scope.md R14), which the free input is applied to. -/
  cycle : Nat
deriving DecidableEq, Repr

/-- The fault reasons of 60_exceptions.md R122, in its order. A fault is no hardware behaviour: it marks a state that
the rules never produce from a well-formed configuration after reset, or a read before reset. All are safe: the model
stops where the spec gives it no next state. -/
inductive Fault where
  /-- A step with RST = 0, or an output read, while the state is NOVALUE (10_state.md R34). Raised by every row but
  RESET, and by the outputs. Safe. -/
  | readBeforeReset
  /-- The six digit registers are not a valid time value (30_encoding.md R49). Raised by the check before a row. Safe. -/
  | digitOutOfRange
  /-- ACC ≥ N_TICKS. Raised by the check before a row. Safe. -/
  | accOutOfRange
  /-- CNT ≥ S. Raised by the check before a row. Safe. -/
  | cntOutOfRange
  /-- Some SNAP[p] > 9. Raised by the check before a row. Safe. -/
  | snapOutOfRange
  /-- PH = 0b11. Raised by MUX_RESERVED (42_display.md R107). Safe. -/
  | reservedPhase
  /-- HT below 0 inside Adjust. Raised by ADJUST_DEC's borrow, and never met (40_counter.md R83). Safe. -/
  | hoursTensNegative
deriving DecidableEq, Repr

/-- Why the model gives no run. -/
inductive Refusal where
  /-- An operation that has no meaning yet. Raised by exec's arms. Safe. -/
  | notModelled (mnemonic : String)
  /-- The configuration is not well-formed (00_scope.md R10, 60_exceptions.md R123). Raised by every row. Safe. -/
  | illFormedConfiguration
  /-- No row matches a family's decode word. Raised by the cycle, and never met (30_encoding.md R61). Safe. -/
  | noRowSelected
deriving DecidableEq, Repr

/-- s_0 of a run, NOVALUE (43_cycle.md R118, 10_state.md R34), with the given configuration. -/
def State.powerOn (p : Params) : State where
  params := p
  regs := none
  inputs := []
  cycle := 0

/-- The machine right after reset, under the defaults of 00_scope.md R8: the values of 70_reset_and_hazards.md R139.
DESIGN CHOICE, unsafe: PCT = 0 and PUD = 1, the levels of the reset cycle in the spec's own example (IN = 0x9), which
the spec leaves to the environment (assumption 3); N_TICKS = 2 and S = 2 (assumption 2). No stimulus is placed. -/
def State.reset : State where
  params := Config.defaultParams
  regs := some
    { ctr := { time := ⟨2, 3, 5, 9, 3, 0⟩, acc := 0 }
      mode := { mode := ⟨.secondsView, .increment, true⟩, pct := false, pud := true }
      disp := { pos := 0, ph := .write, cnt := 0, snap := ⟨5, 9, 3, 0⟩ } }
  inputs := []
  cycle := 1

end Sys2Proof.Machine
end

