-- ==== Sys2Proof/Machine/Ops.lean ====
section
/-! DEFINITION. The shared operations: reading the input of the cycle, the checks before a row, writing one family's
registers, the BCD adjustment, and the reset values.

BCDTC takes no exception and has no return from one (60_exceptions.md R120, R127, R128), so there is no operation for
either: what stops the model is a fault of R122. BCDTC has no memory (20_memory.md R35), so there is no load and no
store. -/

namespace Sys2Proof.Machine

/-- One outcome of the model. -/
abbrev Result := Host.Outcome State Fault Refusal

/-- The first outcome's next state handed on; a fault or a refusal stays. -/
def andThen (o : Result) (k : State → Result) : Result :=
  match o with
  | .next s => k s
  | .fault f => .fault f
  | .refused r => .refused r

/-- in_t: the input vector the environment presents in this cycle (00_scope.md R7, R14): the first placed one, and
where none is placed a free value (assumption 4). -/
def currentInput (s : State) : Input :=
  match s.inputs with
  | i :: _ => i
  | [] => Config.freeInput s.cycle

/-- The edge that ends the cycle, on the environment's side: the cycle's input is used up and t counts on (R14). -/
def advance (s : State) : State :=
  { s with inputs := s.inputs.tail, cycle := s.cycle + 1 }

/-- CheckLegal: the first of the out-of-range registers of 60_exceptions.md R122, in the order of its table, or none.
PAGE, DIR, IND, PCT, PUD and POS have no illegal values. -/
def checkLegal (p : Params) (r : Regs) : Option Fault :=
  if r.ctr.time.valid = false then some .digitOutOfRange
  else if p.nTicks ≤ r.ctr.acc then some .accOutOfRange
  else if p.settle ≤ r.disp.cnt then some .cntOutOfRange
  else if r.disp.snap.toList.any (fun d => decide (9 < d.toNat)) then some .snapOutOfRange
  else none

/-- A well-formed configuration is required (00_scope.md R10): the model gives any other no behaviour. -/
def configured (s : State) (k : Result) : Result :=
  if s.params.wellFormed then k else .refused .illFormedConfiguration

/-- What comes before every row but RESET, in the order of 60_exceptions.md R122 and 43_cycle.md R114: the
configuration is well-formed, the state is not NOVALUE, and the registers are in range. -/
def checked (s : State) (k : Regs → Result) : Result :=
  configured s
    (match s.regs with
    | none => .fault .readBeforeReset
    | some r =>
      match checkLegal s.params r with
      | some f => .fault f
      | none => k r)

/-- The counter family's write: digits and ACC, all at one edge, and nothing else (43_cycle.md R112, 10_state.md R19). -/
def State.putCounter (s : State) (r : Regs) (c : CounterRegs) : State :=
  { s with regs := some { r with ctr := c } }

/-- The mode family's write: PAGE, DIR, IND, PCT and PUD, and nothing else (43_cycle.md R112). -/
def State.putMode (s : State) (r : Regs) (m : ModeRegs) : State :=
  { s with regs := some { r with mode := m } }

/-- The display family's write: POS, PH, CNT and SNAP, and nothing else (43_cycle.md R112, 42_display.md R100). -/
def State.putDisplay (s : State) (r : Regs) (d : DisplayRegs) : State :=
  { s with regs := some { r with disp := d } }

/-- The units rule, bound 9 (40_counter.md R75): the digit's new value, and what passes to the next-higher digit. -/
def unitsRule (v : Int) : Int × Int :=
  if v > 9 then (0, 1) else if v < 0 then (9, -1) else (v, 0)

/-- The tens rule, bound 5 (40_counter.md R76): the digit's new value, and what passes to the next-higher digit. -/
def tensRule (v : Int) : Int × Int :=
  if v > 5 then (0, 1) else if v < 0 then (5, -1) else (v, 0)

/-- Check (a) of the hours rule on (HT, HU) (40_counter.md R77). -/
def hoursCarry (h : Int × Int) : Int × Int :=
  if h.2 > 9 ∧ h.1 < 2 then (h.1 + 1, 0) else h

/-- Check (b) of the hours rule, the 23 to 00 rollover (40_counter.md R77). -/
def hoursRollover (h : Int × Int) : Int × Int :=
  if h.2 > 3 ∧ h.1 = 2 then (0, 0) else h

/-- Check (c) of the hours rule, the borrow (40_counter.md R77). -/
def hoursBorrow (h : Int × Int) : Int × Int :=
  if h.2 < 0 then (h.1 - 1, 9) else h

/-- The hours rule: the three checks in their order (40_counter.md R77). -/
def hoursRule (ht hu : Int) : Int × Int :=
  hoursBorrow (hoursRollover (hoursCarry (ht, hu)))

/-- The saturation guard: the value is at its minimum and the step takes SU below 0 (40_counter.md R74). -/
def saturates (t : Time) (step : Int) : Bool :=
  decide (t.ht = 0 ∧ t.hu = 0 ∧ t.mt = 0 ∧ t.mu = 0 ∧ t.st = 0 ∧ (t.su.toNat : Int) + step < 0)

/-- A digit register's contents from the integer the adjustment computed (00_scope.md R11). -/
def digitOf (v : Int) : Digit :=
  BitVec.ofInt 4 v

/-- Adjust(D, s): one step of the whole six-digit value, s = +1 or -1 (40_counter.md R73). The locals are integers
(00_scope.md R11); carry and borrow pass up the chain in the fixed order SU, ST, MU, MT, HU, HT (R78). -/
def adjust (t : Time) (step : Int) : Except Fault Time :=
  if saturates t step then .ok ⟨0, 0, 0, 0, 0, 0⟩
  else
    let su := unitsRule (t.su.toNat + step)
    let st := tensRule (t.st.toNat + su.2)
    let mu := unitsRule (t.mu.toNat + st.2)
    let mt := tensRule (t.mt.toNat + mu.2)
    let h := hoursRule t.ht.toNat (t.hu.toNat + mt.2)
    if h.1 < 0 then .error .hoursTensNegative
    else .ok ⟨digitOf h.1, digitOf h.2, digitOf mt.1, digitOf mu.1, digitOf st.1, digitOf su.1⟩

/-- The write of ADJUST_INC and ADJUST_DEC: ACC <- 0 and the digits <- Adjust(D, s), at one edge (40_counter.md R71,
R72). -/
def applyAdjust (s : State) (r : Regs) (step : Int) : Result :=
  match adjust r.ctr.time step with
  | .ok t => .next (s.putCounter r { time := t, acc := 0 })
  | .error f => .fault f

/-- The registers after RESET (70_reset_and_hazards.md R139): SEED, ACC 0, RESET_MODE, the input levels of the reset
cycle, the start of a refresh cycle, and SNAP = resolve(RESET_MODE.page, SEED). -/
def resetRegs (p : Params) (i : Input) : Regs where
  ctr := { time := p.seed, acc := 0 }
  mode := { mode := p.resetMode, pct := i.changeTime, pud := i.upDown }
  disp := { pos := 0, ph := .write, cnt := 0, snap := resolve p.posMap p.resetMode.page p.seed }

end Sys2Proof.Machine
end

