-- ==== Sys2Proof/Machine/Operands.lean ====
section
/-! DEFINITION. The decode words of a cycle, put together from input bits and predicates on the state (30_encoding.md
R55 to R59), the operands the rows take (R64), and the rows that a cycle's words select. -/

namespace Sys2Proof.Machine

/-- ACCLAST = 1 exactly when ACC = N_TICKS - 1 (30_encoding.md R57). -/
def accLast (p : Params) (r : Regs) : Bool :=
  decide (r.ctr.acc = p.nTicks - 1)

/-- LAST = 1 exactly when CNT = S - 1 (30_encoding.md R59). -/
def cntLast (p : Params) (r : Regs) : Bool :=
  decide (r.disp.cnt = p.settle - 1)

/-- WRAP = 1 exactly when POS = 3 (30_encoding.md R59). -/
def posWrap (r : Regs) : Bool :=
  decide (r.disp.pos = 3)

/-- EDGE of the cycle (30_encoding.md R58, 41_mode.md R89). -/
def edgeNow (r : Regs) (i : Input) : Bool :=
  modeEdge r.mode.pct r.mode.pud i.changeTime i.upDown

/-- RSTW[0] = RST (30_encoding.md R56). -/
def rstwWord (i : Input) : Nat :=
  i.rst.toNat

/-- CTR[3:0] = (RST, TICK, ACCLAST, DIR) (30_encoding.md R57). -/
def ctrWord (p : Params) (r : Regs) (i : Input) : Nat :=
  8 * i.rst.toNat + 4 * i.tick.toNat + 2 * (accLast p r).toNat + r.mode.mode.dir.code.toNat

/-- MODE[3:0] = (RST, EDGE, CT, UD) (30_encoding.md R58). -/
def modeWord (r : Regs) (i : Input) : Nat :=
  8 * i.rst.toNat + 4 * (edgeNow r i).toNat + 2 * i.changeTime.toNat + i.upDown.toNat

/-- MUX[4:0] = (RST, LAST, WRAP, PH[1:0]) (30_encoding.md R59). -/
def muxWord (p : Params) (r : Regs) (i : Input) : Nat :=
  16 * i.rst.toNat + 8 * (cntLast p r).toNat + 4 * (posWrap r).toNat + r.disp.ph.code.toNat

/-- The step sign of an adjustment row: +1 for Increment, -1 for Decrement (30_encoding.md R64). -/
def stepSign : Direction → Int
  | .increment => 1
  | .decrement => -1

/-- The three rows of a cycle with RST = 0 (30_encoding.md R55). -/
structure Rows where
  ctr  : Instr
  mode : Instr
  mux  : Instr
deriving DecidableEq, Repr

/-- The row that each family's decode word selects in the cycle (30_encoding.md R55, 43_cycle.md R116). -/
def selectRows (p : Params) (r : Regs) (i : Input) : Except DecodeError Rows := do
  let c ← decodeWord .ctr (ctrWord p r i)
  let m ← decodeWord .mode (modeWord r i)
  let x ← decodeWord .mux (muxWord p r i)
  return ⟨c, m, x⟩

end Sys2Proof.Machine
end

