-- ==== Sys2Proof/Machine/Counter.lean ====
section
/-! DEFINITION. The CounterEngine family (40_counter.md): CTR_IDLE, TICK_COUNT, ADJUST_INC and ADJUST_DEC. -/

namespace Sys2Proof.Machine

/-- CTR_IDLE: nothing is written (40_counter.md R69). -/
def execCtrIdle (s : State) : Result :=
  checked s fun _ => .next s

/-- TICK_COUNT: ACC <- ACC + 1 (40_counter.md R70). -/
def execTickCount (s : State) : Result :=
  checked s fun r => .next (s.putCounter r { r.ctr with acc := r.ctr.acc + 1 })

/-- ADJUST_INC: ACC <- 0 and the digits <- Adjust(D, +1) (40_counter.md R71). -/
def execAdjustInc (s : State) : Result :=
  checked s fun r => applyAdjust s r (stepSign .increment)

/-- ADJUST_DEC: ACC <- 0 and the digits <- Adjust(D, -1) (40_counter.md R72). -/
def execAdjustDec (s : State) : Result :=
  checked s fun r => applyAdjust s r (stepSign .decrement)

end Sys2Proof.Machine
end

