-- ==== Sys2Proof/Machine/Display.lean ====
section
/-! DEFINITION. The DisplayMux family (42_display.md): the six MUX rows, and the outputs of the block. -/

namespace Sys2Proof.Machine

/-- MUX_WRITE: PH <- HOLD, CNT <- 0 (42_display.md R102). -/
def execMuxWrite (s : State) : Result :=
  checked s fun r => .next (s.putDisplay r { r.disp with ph := .hold, cnt := 0 })

/-- MUX_HOLD_STAY: CNT <- CNT + 1 (42_display.md R103). -/
def execMuxHoldStay (s : State) : Result :=
  checked s fun r => .next (s.putDisplay r { r.disp with cnt := r.disp.cnt + 1 })

/-- MUX_HOLD_END: PH <- OFF, CNT <- 0 (42_display.md R104). -/
def execMuxHoldEnd (s : State) : Result :=
  checked s fun r => .next (s.putDisplay r { r.disp with ph := .off, cnt := 0 })

/-- MUX_OFF_NEXT: POS <- POS + 1, PH <- WRITE, CNT <- 0 (42_display.md R105). -/
def execMuxOffNext (s : State) : Result :=
  checked s fun r => .next (s.putDisplay r { r.disp with pos := r.disp.pos + 1, ph := .write, cnt := 0 })

/-- MUX_OFF_WRAP: POS <- 0, PH <- WRITE, CNT <- 0, SNAP <- resolve(PAGE, D), with PAGE and D as they are during the
cycle (42_display.md R106, 20_memory.md R43). -/
def execMuxOffWrap (s : State) : Result :=
  checked s fun r =>
    .next (s.putDisplay r
      { pos := 0, ph := .write, cnt := 0, snap := resolve s.params.posMap r.mode.mode.page r.ctr.time })

/-- MUX_RESERVED: raise Fault(RESERVED_PHASE) (42_display.md R107). -/
def execMuxReserved (s : State) : Result :=
  checked s fun _ => .fault .reservedPhase

/-- Out on the registers (43_cycle.md R115): IND; SEL = onehot4(POS) in HOLD, otherwise 0b0000; DIGIT = SNAP[POS].
In the reserved phase R107 calls the outputs not defined and R115 gives them: R115 is followed (DEDUCED, assumption
12). -/
def outputsOf (r : Regs) : Outputs where
  ind := r.mode.mode.ind
  sel := if r.disp.ph = .hold then onehot4 r.disp.pos else 0
  digit := r.disp.snap.get r.disp.pos

/-- Out(s): the outputs during a cycle, a function of the state alone; a fault before the first reset (43_cycle.md
R115, 10_state.md R33, R34). -/
def outputs (s : State) : Except Fault Outputs :=
  match s.regs with
  | none => .error .readBeforeReset
  | some r => .ok (outputsOf r)

end Sys2Proof.Machine
end

