-- ==== Sys2Proof/Machine/Mode.lean ====
section
/-! DEFINITION. The ModeController family (41_mode.md): MODE_HOLD and the four edge rows. -/

namespace Sys2Proof.Machine

/-- The write of an edge row: its row of the decision table, and the levels it stands for into PCT and PUD (41_mode.md
R88, R90). -/
def applyEdge (changeTime upDown : Bool) (s : State) : Result :=
  checked s fun r => .next (s.putMode r { mode := decisionRow changeTime upDown, pct := changeTime, pud := upDown })

/-- MODE_HOLD: PCT and PUD take the sampled levels, PAGE, DIR and IND keep their values (41_mode.md R91). -/
def execModeHold (ct ud : Bool) (s : State) : Result :=
  checked s fun r => .next (s.putMode r { r.mode with pct := ct, pud := ud })

/-- MODE_HOURS_INC: (HoursView, Increment, on) (41_mode.md R92). -/
def execModeHoursInc (s : State) : Result :=
  applyEdge true true s

/-- MODE_HOURS_DEC: (HoursView, Decrement, off) (41_mode.md R93). -/
def execModeHoursDec (s : State) : Result :=
  applyEdge true false s

/-- MODE_SECONDS_INC: (SecondsView, Increment, on) (41_mode.md R94). -/
def execModeSecondsInc (s : State) : Result :=
  applyEdge false true s

/-- MODE_SECONDS_DEC: (SecondsView, Decrement, off) (41_mode.md R95). -/
def execModeSecondsDec (s : State) : Result :=
  applyEdge false false s

end Sys2Proof.Machine
end

