-- ==== Sys2Proof/Machine/Reset.lean ====
section
/-! DEFINITION. RESET (70_reset_and_hazards.md R139), the one operation outside the three families. -/

namespace Sys2Proof.Machine

/-- RESET: every register takes its reset value, whatever the state was before, NOVALUE included; nothing is checked
but the configuration (70_reset_and_hazards.md R139, 43_cycle.md R114). -/
def execReset (s : State) : Result :=
  configured s (.next { s with regs := some (resetRegs s.params (currentInput s)) })

end Sys2Proof.Machine
end

