-- ==== Sys2Proof/Machine/Dispatch.lean ====
section
/-! DEFINITION. The meaning of each operation of 30_encoding.md R60: what its row writes in a cycle. -/

namespace Sys2Proof.Machine

/-- The effect of one row on the state of the cycle: it writes its own family's registers and nothing else
(43_cycle.md R112). The cycle composes the three rows. -/
def exec (i : Instr) (s : State) : Host.Outcome State Fault Refusal :=
  match i with
  | .reset => Sys2Proof.Machine.execReset s
  | .ctrIdle _ _ => Sys2Proof.Machine.execCtrIdle s
  | .tickCount _ => Sys2Proof.Machine.execTickCount s
  | .adjustDec => Sys2Proof.Machine.execAdjustDec s
  | .adjustInc => Sys2Proof.Machine.execAdjustInc s
  | .modeHold ct ud => Sys2Proof.Machine.execModeHold ct ud s
  | .modeSecondsDec => Sys2Proof.Machine.execModeSecondsDec s
  | .modeSecondsInc => Sys2Proof.Machine.execModeSecondsInc s
  | .modeHoursDec => Sys2Proof.Machine.execModeHoursDec s
  | .modeHoursInc => Sys2Proof.Machine.execModeHoursInc s
  | .muxWrite _ _ => Sys2Proof.Machine.execMuxWrite s
  | .muxHoldStay _ => Sys2Proof.Machine.execMuxHoldStay s
  | .muxHoldEnd _ => Sys2Proof.Machine.execMuxHoldEnd s
  | .muxOffNext _ => Sys2Proof.Machine.execMuxOffNext s
  | .muxOffWrap _ => Sys2Proof.Machine.execMuxOffWrap s
  | .muxReserved _ _ => Sys2Proof.Machine.execMuxReserved s

end Sys2Proof.Machine
end

