-- ==== Sys2Proof/Machine/Cycle.lean ====
section
/-! DEFINITION. One clock cycle (43_cycle.md R111 to R114): the decode words, RESET alone or the three families
concurrently, and the edge that ends the cycle; and the placing of a table word for the next cycle. -/

namespace Sys2Proof.Machine

/-- The writes of the three families, each computed from the same state s_t, taken together: each family's registers
come from that family's own result (43_cycle.md R112). -/
def mergeFamilies (s sc sm sx : State) : State :=
  { s with
    regs :=
      match sc.regs, sm.regs, sx.regs with
      | some rc, some rm, some rx => some { ctr := rc.ctr, mode := rm.mode, disp := rx.disp }
      | _, _, _ => none }

/-- The three rows of a cycle run concurrently on s_t (43_cycle.md R112). The display row's fault comes before the
counter row's, the order of 60_exceptions.md R122. -/
def runRows (s : State) (rows : Rows) : Result :=
  andThen (exec rows.mux s) fun sx =>
    andThen (exec rows.ctr s) fun sc =>
      andThen (exec rows.mode s) fun sm => .next (mergeFamilies s sc sm sx)

/-- The rows that the three decode words of the cycle select, run on its state (30_encoding.md R55). -/
def runSelected (s : State) (r : Regs) : Result :=
  match selectRows s.params r (currentInput s) with
  | .ok rows => runRows s rows
  | .error _ => .refused .noRowSelected

/-- What the cycle does before its edge: with RST = 1 the row that RSTW selects and nothing else (43_cycle.md R111);
with RST = 0 the checks of R114 and then the rows that the three decode words select. -/
def cycleEffect (s : State) : Result :=
  match decodeWord .rstw (rstwWord (currentInput s)) with
  | .ok i => exec i s
  | .error _ => checked s (runSelected s)

/-- Step(s_t, in_t) with the edge that ends the cycle (43_cycle.md R114). -/
def clockCycle (s : State) : Result :=
  andThen (cycleEffect s) fun t => .next (advance t)

/-- The counter registers and DIR for which the next cycle's CTR word has the bits ACCLAST = bit 1 of w and DIR = bit 0. -/
def placeCounter (p : Params) (w : Nat) (r : Regs) : Regs :=
  { r with
    ctr := { r.ctr with
      acc := if w.testBit 1 then p.nTicks - 1 else if r.ctr.acc = p.nTicks - 1 then 0 else r.ctr.acc }
    mode := { r.mode with mode := { r.mode.mode with dir := dirOfLevel (w.testBit 0) } } }

/-- The previous levels for which the next cycle's EDGE is bit 2 of w, with CT = bit 1 and UD = bit 0. -/
def placeMode (w : Nat) (r : Regs) : Regs :=
  { r with mode := { r.mode with pct := w.testBit 1 != w.testBit 2, pud := w.testBit 0 } }

/-- The sequencer for which the next cycle's MUX word has LAST = bit 3 of w, WRAP = bit 2 and PH = bits 1:0. -/
def placeDisplay (p : Params) (w : Nat) (r : Regs) : Regs :=
  { r with
    disp := { r.disp with
      pos := if w.testBit 2 then 3 else if r.disp.pos = 3 then 0 else r.disp.pos
      ph := Phase.ofCode (BitVec.ofNat 2 w)
      cnt := if w.testBit 3 then p.settle - 1 else if r.disp.cnt = p.settle - 1 then 0 else r.disp.cnt } }

/-- The state in which the next cycle's decode words have the bits of the table word w (assumption 9): the RESET input
where w is read as RESET, and else the inputs and the registers that CTR, MODE and MUX are put together from. The
reserved phase is placed only where w is read as MUX_RESERVED. -/
def placeWord (s : State) (nbits w : Nat) : State :=
  match decodeTableWord nbits w with
  | none => s
  | some .reset => { s with inputs := ⟨true, false, false, false⟩ :: s.inputs }
  | some i =>
    let place (r : Regs) : Regs :=
      let r' := placeMode w (placeCounter s.params w r)
      if w % 4 = 3 ∧ i.format ≠ .mux then r' else placeDisplay s.params w r'
    { s with
      regs := s.regs.map place
      inputs := ⟨false, w.testBit 2, w.testBit 1, w.testBit 0⟩ :: s.inputs }

end Sys2Proof.Machine
end

