-- ==== Sys2Proof/Machine/Step.lean ====
section
/-! DEFINITION. One step of the model: one CLK cycle (00_scope.md R6). -/

namespace Sys2Proof.Machine

/-- One step: the clock cycle with the input vector of the cycle (00_scope.md R6, 43_cycle.md R114). -/
def step (s : State) : Host.Outcome State Fault Refusal :=
  Sys2Proof.Machine.clockCycle s

/-- `s` with a row's word placed for the next cycle: BCDTC fetches nothing (20_memory.md R47), so what is placed is
what the decode words of the cycle are put together from (assumption 9). -/
def State.withFetchWord (s : State) (nbits w : Nat) : State :=
  Sys2Proof.Machine.placeWord s nbits w

end Sys2Proof.Machine
end

