-- ==== Sys2Proof/Machine/Script.lean ====
section
/-! DEFINITION. The stimulus scripts of 30_encoding.md R66 and their encoding, cycle by cycle, as input vectors (R65).
A script is BCDTC's only program: the input vectors it stands for are placed in `State.inputs`. -/

namespace Sys2Proof

/-- The operation of a script line (30_encoding.md R66): `reset` is RST = 1, `tick` is TICK = 1, `idle` neither. -/
inductive ScriptOp where
  | reset | tick | idle
deriving DecidableEq, Repr

/-- A line of a stimulus script (30_encoding.md R66). -/
inductive ScriptLine where
  /-- `<op> [ct=<b>] [ud=<b>] [xK]`: K cycles; a level that is not given is kept from the line before. -/
  | line (op : ScriptOp) (ct ud : Option Bool) (times : Nat)
  /-- `second [xK]`: N_TICKS `tick` lines, K times over. -/
  | second (times : Nat)
  /-- `refresh [xK]`: 4*(S+2) `idle` lines, K times over. -/
  | refresh (times : Nat)
  /-- `mode ct=<b> ud=<b>`: `idle ct=<b> ud=<b>`. -/
  | mode (ct ud : Bool)
deriving DecidableEq, Repr

/-- The input vector of one cycle of a line's operation at the given levels. -/
def ScriptOp.input (op : ScriptOp) (ct ud : Bool) : Input :=
  ⟨decide (op = .reset), decide (op = .tick), ct, ud⟩

/-- A well-formed script begins with a `reset` line that gives both levels (30_encoding.md R66). -/
def scriptWellFormed : List ScriptLine → Bool
  | .line .reset (some _) (some _) _ :: _ => true
  | _ => false

/-- The input vectors of one line at the levels of the line before, and the levels it leaves. -/
def ScriptLine.inputs (p : Params) (ct ud : Bool) : ScriptLine → List Input × Bool × Bool
  | .line op ct' ud' k =>
    let c := ct'.getD ct
    let u := ud'.getD ud
    (List.replicate k (op.input c u), c, u)
  | .second k => (List.replicate (p.nTicks * k) (ScriptOp.tick.input ct ud), ct, ud)
  | .refresh k => (List.replicate (p.period * k) (ScriptOp.idle.input ct ud), ct, ud)
  | .mode c u => ([ScriptOp.idle.input c u], c, u)

/-- The input vectors of a script's lines, from the levels before it. -/
def scriptInputs (p : Params) : Bool → Bool → List ScriptLine → List Input
  | _, _, [] => []
  | ct, ud, l :: ls =>
    let out := l.inputs p ct ud
    out.1 ++ scriptInputs p out.2.1 out.2.2 ls

/-- The input vectors that a script stands for, or none where it is not well-formed (30_encoding.md R66). The levels
before the first line are never read: a well-formed first line gives both. -/
def assemble (p : Params) (script : List ScriptLine) : Option (List Input) :=
  if scriptWellFormed script then some (scriptInputs p false false script) else none

end Sys2Proof
end

