-- ==== Sys2Proof/Safety.lean ====
section
/-! DEFINITION. What counts as a legal state, a ready state and a safe run; and what the statements count along a run. -/

namespace Sys2Proof.Safety

open Sys2Proof.Machine

/-- The state can run a row: its configuration is well-formed (00_scope.md R10), it holds registers (10_state.md R34),
and they are in range (60_exceptions.md R122, cases 1 to 5). -/
def Ready (s : State) (r : Regs) : Prop :=
  s.params.wellFormed = true ∧ s.regs = some r ∧ checkLegal s.params r = none

/-- The registers of a reachable state, for a configuration: valid digits (10_state.md R18), ACC, CNT and SNAP in range
(60_exceptions.md R122), no reserved phase (42_display.md R107), IND on exactly under Increment (10_state.md R24), and
CNT 0 outside HOLD (R27). -/
def RegsSafe (p : Params) (r : Regs) : Prop :=
  r.ctr.time.valid = true ∧ r.ctr.acc < p.nTicks ∧ r.disp.cnt < p.settle ∧
    (∀ pos : Fin 4, (r.disp.snap.get pos).toNat ≤ 9) ∧ r.disp.ph ≠ .reserved ∧
    (r.mode.mode.ind = true ↔ r.mode.mode.dir = .increment) ∧ (r.disp.ph ≠ .hold → r.disp.cnt = 0)

/-- A state of a well-formed run: NOVALUE, or safe registers. -/
def StateSafe (s : State) : Prop :=
  s.params.wellFormed = true ∧ ∀ r, s.regs = some r → RegsSafe s.params r

/-- The snapshot holds four digits of one valid time value, as one page shows them (20_memory.md R43). -/
def SnapConsistent (s : State) : Prop :=
  ∀ r, s.regs = some r →
    ∃ (page : Page) (t : Time), t.valid = true ∧ r.disp.snap = resolve s.params.posMap page t

/-- A run of k cycles from s (43_cycle.md R118), stopping at the first fault or refusal. -/
def run : Nat → State → Result
  | 0, s => .next s
  | k + 1, s => andThen (step s) (run k)

/-- A safe run of k cycles: it meets no fault and no refusal. -/
def RunsSafely (k : Nat) (s : State) : Prop :=
  ∃ t, run k s = .next t

/-- A state of some run (43_cycle.md R118): from NOVALUE, under a well-formed configuration, by some inputs. -/
def Reachable (s : State) : Prop :=
  ∃ (p : Params) (ins : List Input) (k : Nat),
    p.wellFormed = true ∧ run k { State.powerOn p with inputs := ins } = .next s

/-- How many of the first k cycles from s have the property; the count ends where the machine stops. -/
def countCycles (P : State → Bool) : Nat → State → Nat
  | 0, _ => 0
  | k + 1, s =>
    (P s).toNat +
      (match step s with
      | .next t => countCycles P k t
      | .fault _ => 0
      | .refused _ => 0)

/-- The cycle is a reset cycle (10_state.md R31). -/
def isReset (s : State) : Bool :=
  (currentInput s).rst

/-- The cycle counts a tick: RST = 0 and TICK = 1 (40_counter.md R85). -/
def isTick (s : State) : Bool :=
  !(currentInput s).rst && (currentInput s).tick

/-- The cycle has a mode edge: RST = 0 and EDGE = 1 (41_mode.md R89). -/
def isEdge (s : State) : Bool :=
  match s.regs with
  | some r => !(currentInput s).rst && edgeNow r (currentInput s)
  | none => false

/-- The cycle performs an adjustment: its CTR word selects ADJUST_INC or ADJUST_DEC (40_counter.md R67). -/
def isAdjust (s : State) : Bool :=
  match s.regs with
  | some r =>
    let d := decodeWord .ctr (ctrWord s.params r (currentInput s))
    match d with
    | .ok .adjustInc => true
    | .ok .adjustDec => true
    | _ => false
  | none => false

/-- The cycle performs MUX_OFF_WRAP: it ends the refresh cycle and loads the snapshot (42_display.md R106). -/
def isWrap (s : State) : Bool :=
  match s.regs with
  | some r => !(currentInput s).rst && decide (r.disp.ph = .off) && decide (r.disp.pos = 3)
  | none => false

end Sys2Proof.Safety
end

