-- ==== Sys2Proof/Certificates/Slice0/Obligations.lean ====
section
/-! DEFINITION. The statements for the provers: the numbered rules of the spec that say what an operation or a cycle
does, the invariants every cycle keeps, and the laws of runs. A statement with `Ready s r` holds in every state whose
configuration is well-formed and whose registers pass CheckLegal, reachable or not. -/

open Sys2Proof Sys2Proof.Machine Sys2Proof.Safety

/-! ### Encodings -/

/-- Decode and encode agree, for every format and every number: a word decodes to an operation exactly when it is that
operation's word in that operation's format (the operation map of 30_encoding.md section 3). -/
def Obligations.DecodeAndEncodeAgree : Prop :=
  ∀ (f : Format) (w : Nat) (i : Instr),
    decodeWord f w = .ok i ↔ (i.wellFormed = true ∧ i.format = f ∧ encode i = w)

/-- 30_encoding.md R61: with RST = 0 every CTR, MODE and MUX word matches exactly one row of its format; with RST = 1 no
row of the three matches, and RESET alone is performed. The RST bit is each word's top bit (R57 to R59). -/
def Obligations.WordsSelectExactlyOneRow : Prop :=
  (∀ (f : Format) (w : Nat), f ≠ .rstw → w < 2 ^ f.width →
    (w.testBit (f.width - 1) = false → (operationMap.filter (fun row => row.selects f w)).length = 1) ∧
    (w.testBit (f.width - 1) = true → (operationMap.filter (fun row => row.selects f w)).length = 0)) ∧
  (∀ s : State, isReset s = true → cycleEffect s = exec .reset s)

/-- A few words written out from the rows of 30_encoding.md R60 decode to the operation they stand for. -/
def Obligations.WrittenOutWordsDecode : Prop :=
  decodeWord .rstw 0b1 = .ok .reset ∧ decodeWord .ctr 0b0101 = .ok (.tickCount true) ∧
    decodeWord .ctr 0b0110 = .ok .adjustDec ∧ decodeWord .mode 0b0001 = .ok (.modeHold false true) ∧
    decodeWord .mode 0b0110 = .ok .modeHoursDec ∧ decodeWord .mux 0b01101 = .ok (.muxHoldEnd true) ∧
    decodeWord .mux 0b00110 = .ok (.muxOffWrap false)

/-- 30_encoding.md R56, R57 and R58, with the MUX word beside them: the width and every field of the decode words. -/
def Obligations.DecodeWordsHoldTheirFields : Prop :=
  ∀ (p : Params) (r : Regs) (i : Input),
    (rstwWord i < 2 ∧ (rstwWord i).testBit 0 = i.rst ∧ decodeWord .rstw 1 = .ok .reset ∧
      ∀ j, decodeWord .rstw 0 ≠ .ok j) ∧
    (ctrWord p r i < 16 ∧ (ctrWord p r i).testBit 3 = i.rst ∧ (ctrWord p r i).testBit 2 = i.tick ∧
      ((ctrWord p r i).testBit 1 = true ↔ r.ctr.acc = p.nTicks - 1) ∧
      ((ctrWord p r i).testBit 0 = true ↔ r.mode.mode.dir = .increment)) ∧
    (modeWord r i < 16 ∧ (modeWord r i).testBit 3 = i.rst ∧
      ((modeWord r i).testBit 2 = true ↔ i.changeTime ≠ r.mode.pct ∨ i.upDown ≠ r.mode.pud) ∧
      (modeWord r i).testBit 1 = i.changeTime ∧ (modeWord r i).testBit 0 = i.upDown) ∧
    (muxWord p r i < 32 ∧ (muxWord p r i).testBit 4 = i.rst ∧
      ((muxWord p r i).testBit 3 = true ↔ r.disp.cnt = p.settle - 1) ∧
      ((muxWord p r i).testBit 2 = true ↔ r.disp.pos = 3) ∧ muxWord p r i % 4 = r.disp.ph.code.toNat)

/-- 43_cycle.md R116: the row tables select the operation that the branch of the Step pseudocode (R114) picks: RESET in
a cycle with RST = 1, and else the row of each family's branch. -/
def Obligations.SelectedRowsFollowTheStepBranches : Prop :=
  (∀ (i : Input) (j : Instr), decodeWord .rstw (rstwWord i) = .ok j ↔ i.rst = true ∧ j = .reset) ∧
  ∀ (p : Params) (r : Regs) (i : Input), i.rst = false →
    ∃ rows, selectRows p r i = .ok rows ∧
      rows.ctr =
        (if i.tick = true then
          if r.ctr.acc = p.nTicks - 1 then
            if r.mode.mode.dir = .increment then .adjustInc else .adjustDec
          else .tickCount (decide (r.mode.mode.dir = .increment))
        else .ctrIdle (decide (r.ctr.acc = p.nTicks - 1)) (decide (r.mode.mode.dir = .increment))) ∧
      rows.mode =
        (if i.changeTime ≠ r.mode.pct ∨ i.upDown ≠ r.mode.pud then
          if i.changeTime = true then
            if i.upDown = true then .modeHoursInc else .modeHoursDec
          else if i.upDown = true then .modeSecondsInc else .modeSecondsDec
        else .modeHold i.changeTime i.upDown) ∧
      rows.mux =
        (match r.disp.ph with
        | .write => .muxWrite (decide (r.disp.cnt = p.settle - 1)) (decide (r.disp.pos = 3))
        | .hold =>
          if r.disp.cnt = p.settle - 1 then .muxHoldEnd (decide (r.disp.pos = 3))
          else .muxHoldStay (decide (r.disp.pos = 3))
        | .off =>
          if r.disp.pos = 3 then .muxOffWrap (decide (r.disp.cnt = p.settle - 1))
          else .muxOffNext (decide (r.disp.cnt = p.settle - 1))
        | .reserved => .muxReserved (decide (r.disp.cnt = p.settle - 1)) (decide (r.disp.pos = 3)))

/-- 30_encoding.md R65: the input vector as one hexadecimal digit, with the rule's two examples. -/
def Obligations.InputVectorsRoundTrip : Prop :=
  (∀ i : Input, i.vec < 16 ∧ Input.ofVec i.vec = i) ∧
    (∀ i : Input, i.vec.testBit 3 = i.rst ∧ i.vec.testBit 2 = i.tick ∧ i.vec.testBit 1 = i.changeTime ∧
      i.vec.testBit 0 = i.upDown) ∧
    Input.ofVec 0x9 = ⟨true, false, false, true⟩ ∧ Input.ofVec 0x5 = ⟨false, true, false, true⟩

/-- 30_encoding.md R50 as notation: a TIME word writes down its time value, and 23:59:30 is 0x235930. -/
def Obligations.TimeWordsReadAsTheTime : Prop :=
  (∀ t : Time, Time.ofWord t.word = t) ∧ (∀ w : BitVec 24, (Time.ofWord w).word = w) ∧
    Config.defaultSeed.word = 0x235930

/-! ### The counter family -/

/-- CTR_IDLE completes from every ready state and writes nothing (40_counter.md R69). -/
def Obligations.CtrIdleWritesNothing : Prop :=
  ∀ (s : State) (r : Regs) (accLast dir : Bool), Ready s r → exec (.ctrIdle accLast dir) s = .next s

/-- TICK_COUNT completes from every ready state: ACC goes up by one and nothing else changes; the new ACC is at most
N_TICKS - 1 where the row is selected (40_counter.md R70). -/
def Obligations.TickCountCountsOneTick : Prop :=
  ∀ (s : State) (r : Regs) (dir : Bool), Ready s r →
    exec (.tickCount dir) s =
        .next { s with regs := some { r with ctr := { r.ctr with acc := r.ctr.acc + 1 } } } ∧
      (r.ctr.acc ≠ s.params.nTicks - 1 → r.ctr.acc + 1 ≤ s.params.nTicks - 1)

/-- ADJUST_INC completes from every ready state: ACC is 0, the digits are the valid time one second on, modulo one day,
and nothing else changes (40_counter.md R71, R80). -/
def Obligations.AdjustIncWritesTheNextSecond : Prop :=
  ∀ (s : State) (r : Regs), Ready s r →
    ∃ t : Time, t.valid = true ∧ t.secs = (r.ctr.time.secs + 1) % 86400 ∧
      exec .adjustInc s = .next { s with regs := some { r with ctr := { time := t, acc := 0 } } }

/-- ADJUST_DEC completes from every ready state: ACC is 0, the digits are the valid time one second back, 00:00:00
staying as it is, and nothing else changes (40_counter.md R72, R81). -/
def Obligations.AdjustDecWritesThePreviousSecond : Prop :=
  ∀ (s : State) (r : Regs), Ready s r →
    ∃ t : Time, t.valid = true ∧ (t.secs : Int) = max ((r.ctr.time.secs : Int) - 1) 0 ∧
      exec .adjustDec s = .next { s with regs := some { r with ctr := { time := t, acc := 0 } } }

/-- 40_counter.md R80: increment is the successor modulo one day. -/
def Obligations.IncrementIsSuccessorModuloADay : Prop :=
  (∀ t : Time, t.valid = true → ∃ t', adjust t 1 = .ok t' ∧ t'.secs = (t.secs + 1) % 86400) ∧
    adjust ⟨2, 3, 5, 9, 5, 9⟩ 1 = .ok ⟨0, 0, 0, 0, 0, 0⟩

/-- 40_counter.md R81: decrement is the predecessor saturated at zero. -/
def Obligations.DecrementIsPredecessorSaturatedAtZero : Prop :=
  (∀ t : Time, t.valid = true → ∃ t', adjust t (-1) = .ok t' ∧ (t'.secs : Int) = max ((t.secs : Int) - 1) 0) ∧
    adjust ⟨0, 0, 0, 0, 0, 0⟩ (-1) = .ok ⟨0, 0, 0, 0, 0, 0⟩

/-- 40_counter.md R74 and R82: where the higher five digits are 0 and the step takes SU below 0, SU is 0, the step is
-1 and no digit changes; the guard never fires upwards; over the valid times it fires only at 00:00:00 downwards. -/
def Obligations.SaturationGuardHoldsMidnight : Prop :=
  (∀ (t : Time) (step : Int), step = 1 ∨ step = -1 →
    t.ht = 0 → t.hu = 0 → t.mt = 0 → t.mu = 0 → t.st = 0 → (t.su.toNat : Int) + step < 0 →
      t.su = 0 ∧ step = -1 ∧ adjust t step = .ok t) ∧
  (∀ t : Time, saturates t 1 = false) ∧
  (∀ (t : Time) (step : Int), t.valid = true → step = 1 ∨ step = -1 →
    (saturates t step = true ↔ t = ⟨0, 0, 0, 0, 0, 0⟩ ∧ step = -1))

/-- The fault HOURS_TENS_NEGATIVE of Adjust is never met, on any digits, valid or not, and for any step (40_counter.md
section 4 shows it for the valid ones and the steps +1 and -1, R83). -/
def Obligations.AdjustNeverTakesHoursBelowZero : Prop :=
  ∀ (t : Time) (step : Int), ∃ t', adjust t step = .ok t'

/-- Adjust of a valid time is a valid time, in both directions (the first sentence of 40_counter.md R84). -/
def Obligations.AdjustKeepsTimesValid : Prop :=
  ∀ (t t' : Time) (step : Int), t.valid = true → step = 1 ∨ step = -1 → adjust t step = .ok t' → t'.valid = true

/-- Increment digit by digit, for every length of carry (40_counter.md R75 to R77): only the digits up to the one that
stops the carry change. -/
def Obligations.IncrementCarriesDigitByDigit : Prop :=
  ∀ t : Time, t.valid = true →
    (t.su ≠ 9 → adjust t 1 = .ok { t with su := t.su + 1 }) ∧
    (t.su = 9 → t.st ≠ 5 → adjust t 1 = .ok { t with su := 0, st := t.st + 1 }) ∧
    (t.su = 9 → t.st = 5 → t.mu ≠ 9 → adjust t 1 = .ok { t with su := 0, st := 0, mu := t.mu + 1 }) ∧
    (t.su = 9 → t.st = 5 → t.mu = 9 → t.mt ≠ 5 →
      adjust t 1 = .ok { t with su := 0, st := 0, mu := 0, mt := t.mt + 1 }) ∧
    (t.su = 9 → t.st = 5 → t.mu = 9 → t.mt = 5 →
      adjust t 1 = .ok
        (if t.ht = 2 ∧ t.hu = 3 then ⟨0, 0, 0, 0, 0, 0⟩
        else if t.hu = 9 then ⟨t.ht + 1, 0, 0, 0, 0, 0⟩
        else ⟨t.ht, t.hu + 1, 0, 0, 0, 0⟩))

/-- Decrement digit by digit, for every length of borrow (40_counter.md R74 to R77). -/
def Obligations.DecrementBorrowsDigitByDigit : Prop :=
  ∀ t : Time, t.valid = true →
    (t.su ≠ 0 → adjust t (-1) = .ok { t with su := t.su - 1 }) ∧
    (t.su = 0 → t.st ≠ 0 → adjust t (-1) = .ok { t with su := 9, st := t.st - 1 }) ∧
    (t.su = 0 → t.st = 0 → t.mu ≠ 0 → adjust t (-1) = .ok { t with su := 9, st := 5, mu := t.mu - 1 }) ∧
    (t.su = 0 → t.st = 0 → t.mu = 0 → t.mt ≠ 0 →
      adjust t (-1) = .ok { t with su := 9, st := 5, mu := 9, mt := t.mt - 1 }) ∧
    (t.su = 0 → t.st = 0 → t.mu = 0 → t.mt = 0 →
      adjust t (-1) = .ok
        (if t.hu ≠ 0 then ⟨t.ht, t.hu - 1, 5, 9, 5, 9⟩
        else if t.ht ≠ 0 then ⟨t.ht - 1, 9, 5, 9, 5, 9⟩
        else ⟨0, 0, 0, 0, 0, 0⟩))

/-- The valid time values are the seconds of a day, one for each (00_scope.md section 4, R12). -/
def Obligations.ValidTimesAreTheSecondsOfADay : Prop :=
  (∀ t : Time, t.valid = true → t.secs < 86400) ∧
    ∀ n : Nat, n < 86400 → ∃ t : Time, (t.valid = true ∧ t.secs = n) ∧ ∀ u : Time, u.valid = true → u.secs = n → u = t

/-- 40_counter.md R68: a threshold tick adjusts by the DIR that the state holds, whatever edge falls in its cycle; the
edge's direction stands in DIR from the next cycle. -/
def Obligations.ThresholdTickUsesTheOldDirection : Prop :=
  ∀ (s : State) (r : Regs), Ready s r → r.disp.ph ≠ .reserved → isReset s = false → isTick s = true →
    r.ctr.acc = s.params.nTicks - 1 →
      ∃ (t : State) (q : Regs), step s = .next t ∧ t.regs = some q ∧ q.ctr.acc = 0 ∧ q.ctr.time.valid = true ∧
        (r.mode.mode.dir = .increment → q.ctr.time.secs = (r.ctr.time.secs + 1) % 86400) ∧
        (r.mode.mode.dir = .decrement → (q.ctr.time.secs : Int) = max ((r.ctr.time.secs : Int) - 1) 0) ∧
        q.mode.mode.dir = (if isEdge s = true then dirOfLevel (currentInput s).upDown else r.mode.mode.dir)

/-- The widths of 10_state.md R16: an in-range ACC and CNT fit ACC_W and CNT_W bits, and one bit less would not do. -/
def Obligations.CountsFitTheirWidths : Prop :=
  ∀ p : Params, 1 ≤ p.nTicks → 1 ≤ p.settle →
    (∀ a, a < p.nTicks → a < 2 ^ p.accWidth) ∧ (∀ c, c < p.settle → c < 2 ^ p.cntWidth) ∧
      (1 < p.accWidth → 2 ^ (p.accWidth - 1) < p.nTicks) ∧ (1 < p.cntWidth → 2 ^ (p.cntWidth - 1) < p.settle)

/-- 40_counter.md R85: after a reset and any cycles without one, ACC is the number of ticks modulo N_TICKS, and
floor(ticks / N_TICKS) adjustments were made. It holds after every number of cycles, which says on which ticks they fall. -/
def Obligations.AdjustmentsFallOnEveryNthTick : Prop :=
  ∀ (s₀ s : State) (k : Nat), isReset s₀ = true → step s₀ = .next s → countCycles isReset k s = 0 →
    ∃ (t : State) (q : Regs), run k s = .next t ∧ t.regs = some q ∧
      q.ctr.acc = countCycles isTick k s % s.params.nTicks ∧
      countCycles isAdjust k s = countCycles isTick k s / s.params.nTicks

/-- Ticks become seconds: over any cycles without a reset or a mode edge, the time goes on by one second for every
N_TICKS ticks, counting those ACC already holds; upwards modulo a day, downwards down to 00:00:00. -/
def Obligations.TicksBecomeSeconds : Prop :=
  ∀ (s : State) (r : Regs) (k : Nat), Ready s r → r.disp.ph ≠ .reserved →
    countCycles isReset k s = 0 → countCycles isEdge k s = 0 →
      ∃ (t : State) (q : Regs), run k s = .next t ∧ t.regs = some q ∧ q.ctr.time.valid = true ∧
        (r.mode.mode.dir = .increment →
          q.ctr.time.secs =
            (r.ctr.time.secs + (r.ctr.acc + countCycles isTick k s) / s.params.nTicks) % 86400) ∧
        (r.mode.mode.dir = .decrement →
          q.ctr.time.secs = r.ctr.time.secs - (r.ctr.acc + countCycles isTick k s) / s.params.nTicks)

/-- The script pseudo-operation `second` (30_encoding.md R66), with the levels unchanged, makes one adjustment: upwards
the time is one second on and ACC is as it was. Where the placed vectors stand, and that `later` is left of them, is the
MODEL's own (DESIGN CHOICE, assumption 4). -/
def Obligations.SecondAddsOneSecond : Prop :=
  ∀ (s : State) (r : Regs) (later : List Input), Ready s r → r.disp.ph ≠ .reserved →
    r.mode.mode.dir = .increment →
    s.inputs = ((ScriptLine.second 1).inputs s.params r.mode.pct r.mode.pud).1 ++ later →
      ∃ (t : State) (q : Regs), run s.params.nTicks s = .next t ∧ t.regs = some q ∧ t.inputs = later ∧
        q.ctr.acc = r.ctr.acc ∧ q.ctr.time.secs = (r.ctr.time.secs + 1) % 86400 ∧ q.mode = r.mode

/-! ### The mode family -/

/-- MODE_HOLD completes from every ready state: PCT and PUD take the sampled levels, nothing else changes (41_mode.md
R91). -/
def Obligations.ModeHoldKeepsTheMode : Prop :=
  ∀ (s : State) (r : Regs) (ct ud : Bool), Ready s r →
    exec (.modeHold ct ud) s = .next { s with regs := some { r with mode := { r.mode with pct := ct, pud := ud } } }

/-- The four edge rows complete from every ready state, each with its row of the decision table and its levels; nothing
else changes (41_mode.md R87, R92 to R95). -/
def Obligations.EdgeRowsWriteTheDecisionTable : Prop :=
  ∀ (s : State) (r : Regs), Ready s r →
    exec .modeHoursInc s = .next { s with regs := some { r with mode :=
        { mode := ⟨.hoursView, .increment, true⟩, pct := true, pud := true } } } ∧
    exec .modeHoursDec s = .next { s with regs := some { r with mode :=
        { mode := ⟨.hoursView, .decrement, false⟩, pct := true, pud := false } } } ∧
    exec .modeSecondsInc s = .next { s with regs := some { r with mode :=
        { mode := ⟨.secondsView, .increment, true⟩, pct := false, pud := true } } } ∧
    exec .modeSecondsDec s = .next { s with regs := some { r with mode :=
        { mode := ⟨.secondsView, .decrement, false⟩, pct := false, pud := false } } }

/-- 41_mode.md R90: every cycle loads PCT and PUD from the input levels, a reset cycle too. -/
def Obligations.EveryCycleSamplesTheLevels : Prop :=
  ∀ (s t : State), step s = .next t →
    ∃ q, t.regs = some q ∧ q.mode.pct = (currentInput s).changeTime ∧ q.mode.pud = (currentInput s).upDown

/-- Without a reset, PAGE, DIR and IND change only in a cycle with a mode edge, which loads the decision table's row for
the levels; the new IND is on the output in the next cycle (41_mode.md R88, R98). -/
def Obligations.OnlyEdgesRewriteTheMode : Prop :=
  ∀ (s : State) (r : Regs), Ready s r → r.disp.ph ≠ .reserved → isReset s = false →
    ∃ (t : State) (q : Regs), step s = .next t ∧ t.regs = some q ∧
      q.mode.mode =
        (if isEdge s = true then decisionRow (currentInput s).changeTime (currentInput s).upDown else r.mode.mode) ∧
      ∃ o, outputs t = .ok o ∧ o.ind = q.mode.mode.ind

/-- 41_mode.md R96: at every point after a reset, the mode is RESET_MODE if no edge has occurred since, and else the
decision table's row for the levels that PCT and PUD hold. Where the cycle after j steps has an edge and the m cycles
after it have none, those levels are its own; with m = 0 this says that every edge cycle applies its own row. -/
def Obligations.ModeIsTheLastEdgesRow : Prop :=
  ∀ (s₀ s : State) (k : Nat), isReset s₀ = true → step s₀ = .next s → countCycles isReset k s = 0 →
    ∃ (t : State) (q : Regs), run k s = .next t ∧ t.regs = some q ∧
      (countCycles isEdge k s = 0 →
        q.mode = { mode := s.params.resetMode, pct := (currentInput s₀).changeTime, pud := (currentInput s₀).upDown }) ∧
      (countCycles isEdge k s ≠ 0 → q.mode.mode = decisionRow q.mode.pct q.mode.pud) ∧
      (∀ (j m : Nat) (u v : State), k = j + 1 + m → run j s = .next u → isEdge u = true → step u = .next v →
        countCycles isEdge m v = 0 →
          q.mode.mode = decisionRow (currentInput u).changeTime (currentInput u).upDown ∧
            q.mode.pct = (currentInput u).changeTime ∧ q.mode.pud = (currentInput u).upDown)

/-- An input that changes for exactly one cycle makes two edges in two cycles: first the row of the changed levels, then
the row of the restored ones (41_mode.md R97). -/
def Obligations.OneCyclePulseMakesTwoEdges : Prop :=
  ∀ (s : State) (r : Regs) (i₁ i₂ : Input) (later : List Input), Ready s r → r.disp.ph ≠ .reserved →
    s.inputs = i₁ :: i₂ :: later → i₁.rst = false → i₂.rst = false →
    (i₁.changeTime ≠ r.mode.pct ∨ i₁.upDown ≠ r.mode.pud) →
    i₂.changeTime = r.mode.pct → i₂.upDown = r.mode.pud →
      ∃ (t u : State) (q v : Regs), step s = .next t ∧ step t = .next u ∧ t.regs = some q ∧ u.regs = some v ∧
        isEdge s = true ∧ isEdge t = true ∧ q.mode.mode = decisionRow i₁.changeTime i₁.upDown ∧
        v.mode.mode = decisionRow r.mode.pct r.mode.pud

/-! ### The display family -/

/-- MUX_WRITE, MUX_HOLD_STAY and MUX_HOLD_END complete from every ready state and write PH and CNT only (42_display.md
R102 to R104). -/
def Obligations.HoldRowsMoveTheSequencer : Prop :=
  ∀ (s : State) (r : Regs) (last wrap : Bool), Ready s r →
    exec (.muxWrite last wrap) s =
      .next { s with regs := some { r with disp := { r.disp with ph := .hold, cnt := 0 } } } ∧
    exec (.muxHoldStay wrap) s =
      .next { s with regs := some { r with disp := { r.disp with cnt := r.disp.cnt + 1 } } } ∧
    exec (.muxHoldEnd wrap) s =
      .next { s with regs := some { r with disp := { r.disp with ph := .off, cnt := 0 } } }

/-- MUX_OFF_NEXT and MUX_OFF_WRAP complete from every ready state: the first goes on to the next position, the second to
position 0 with the snapshot of PAGE and the digits as the state holds them (42_display.md R105, R106). POS + 1 is POS's
own successor where the row is selected. -/
def Obligations.OffRowsMoveToTheNextPosition : Prop :=
  ∀ (s : State) (r : Regs) (last : Bool), Ready s r →
    (∃ p : Fin 4, (r.disp.pos ≠ 3 → p.val = r.disp.pos.val + 1) ∧
      exec (.muxOffNext last) s =
        .next { s with regs := some { r with disp := { r.disp with pos := p, ph := .write, cnt := 0 } } }) ∧
    exec (.muxOffWrap last) s =
      .next { s with regs := some { r with disp :=
        { pos := 0, ph := .write, cnt := 0, snap := resolve s.params.posMap r.mode.mode.page r.ctr.time } } }

/-- 42_display.md R107: MUX_RESERVED ends in the fault RESERVED_PHASE; its words are those with PH = 0b11; no operation
answers a next state in the reserved phase but from it, and no run leads to it. -/
def Obligations.ReservedPhaseFaults : Prop :=
  (∀ (s : State) (r : Regs) (last wrap : Bool), Ready s r → exec (.muxReserved last wrap) s = .fault .reservedPhase) ∧
    (∀ (s t : State) (last wrap : Bool), exec (.muxReserved last wrap) s ≠ .next t) ∧
    (∀ (s t : State) (i : Instr) (q : Regs), exec i s = .next t → t.regs = some q → q.disp.ph = .reserved →
      ∃ r, s.regs = some r ∧ r.disp.ph = .reserved) ∧
    (∀ w : Nat, (∃ last wrap, decodeWord .mux w = .ok (.muxReserved last wrap)) ↔ w < 16 ∧ w % 4 = 0b11) ∧
    (∀ (s : State) (r : Regs), Reachable s → s.regs = some r → r.disp.ph ≠ .reserved)

/-- Each row writes its own family's registers and nothing else (43_cycle.md section 1), so that only the MUX rows and
RESET write POS, PH, CNT and SNAP (42_display.md section 1); no operation changes a parameter (10_state.md section 4).
`inputs` and `cycle`, also unchanged, are the MODEL's own fields (DESIGN CHOICE, assumption 4). -/
def Obligations.FamiliesWriteOnlyTheirOwnRegisters : Prop :=
  ∀ (s t : State) (i : Instr), exec i s = .next t →
    t.params = s.params ∧ t.inputs = s.inputs ∧ t.cycle = s.cycle ∧
      (i ≠ .reset → ∃ r q, s.regs = some r ∧ t.regs = some q ∧
        (i.format ≠ .ctr → q.ctr = r.ctr) ∧ (i.format ≠ .mode → q.mode = r.mode) ∧
        (i.format ≠ .mux → q.disp = r.disp))

/-- 42_display.md R108: the outputs of every cycle of a refresh cycle, the snapshot held through it and reloaded at its
last edge, and a refresh cycle starting right after reset. Cycle number c + k serves position k / (S+2), and is its
phase's cycle k mod (S+2): 0 is WRITE, 1 to S are HOLD, S+1 is OFF. -/
def Obligations.RefreshCycleDrivesEachPosition : Prop :=
  (∀ (s : State) (r : Regs), Ready s r → r.disp.pos = 0 → r.disp.ph = .write → r.disp.cnt = 0 →
    countCycles isReset s.params.period s = 0 →
      (∀ k, k < s.params.period → ∃ (t : State) (q : Regs), run k s = .next t ∧ t.regs = some q ∧
        q.disp.snap = r.disp.snap ∧
        outputs t = .ok
          { ind := q.mode.mode.ind,
            sel := if 1 ≤ k % (s.params.settle + 2) ∧ k % (s.params.settle + 2) ≤ s.params.settle then
                1#4 <<< (k / (s.params.settle + 2)) else 0,
            digit := r.disp.snap.get (Fin.ofNat 4 (k / (s.params.settle + 2))) }) ∧
      ∃ (t u : State) (q v : Regs), run (s.params.period - 1) s = .next t ∧ run s.params.period s = .next u ∧
        t.regs = some q ∧ u.regs = some v ∧
        v.disp = ⟨0, .write, 0, resolve s.params.posMap q.mode.mode.page q.ctr.time⟩) ∧
  (∀ s : State, s.params.wellFormed = true → isReset s = true →
    ∃ (t : State) (q : Regs), step s = .next t ∧ t.regs = some q ∧ q.disp.pos = 0 ∧ q.disp.ph = .write ∧
      q.disp.cnt = 0)

/-- The patterns on SEL (30_encoding.md R53, 42_display.md R109 (a)): no position enabled, or exactly one, and in HOLD
exactly one. -/
def Obligations.SelIsBlankOrOneHot : Prop :=
  ∀ (s : State) (r : Regs), s.regs = some r →
    ∃ o, outputs s = .ok o ∧
      (o.sel = 0b0000 ∨ o.sel = 0b0001 ∨ o.sel = 0b0010 ∨ o.sel = 0b0100 ∨ o.sel = 0b1000) ∧
      (r.disp.ph = .hold → o.sel ≠ 0b0000)

/-- Apart from reset cycles, DIGIT changes only at an edge with SEL = 0b0000 on both sides, and SEL only at an edge with
DIGIT the same on both sides (42_display.md R109 (d)). -/
def Obligations.DigitChangesOnlyWhileBlank : Prop :=
  ∀ (s : State) (r : Regs), Ready s r → r.disp.ph ≠ .reserved → isReset s = false →
    ∃ (t : State) (a b : Outputs), step s = .next t ∧ outputs s = .ok a ∧ outputs t = .ok b ∧
      (a.digit ≠ b.digit → a.sel = 0b0000 ∧ b.sel = 0b0000) ∧ (a.sel ≠ b.sel → a.digit = b.digit)

/-- The refresh period (42_display.md R110): after P = 4*(S+2) cycles without a reset the sequencer is where it was, and
exactly one of them was the MUX_OFF_WRAP cycle. -/
def Obligations.SequencerReturnsAfterOnePeriod : Prop :=
  ∀ (s : State) (r : Regs), Ready s r → r.disp.ph ≠ .reserved → (r.disp.ph ≠ .hold → r.disp.cnt = 0) →
    countCycles isReset s.params.period s = 0 →
      ∃ (t : State) (q : Regs), run s.params.period s = .next t ∧ t.regs = some q ∧ q.disp.pos = r.disp.pos ∧
        q.disp.ph = r.disp.ph ∧ q.disp.cnt = r.disp.cnt ∧ countCycles isWrap s.params.period s = 1

/-- Of any P cycles without a reset one is a MUX_OFF_WRAP cycle: in the cycle after it SNAP holds the digits that its
page shows, and the port the first of them, at position 0 (42_display.md section 2). The later positions follow in
their turn (`RefreshCycleDrivesEachPosition`), which can be after the P cycles. -/
def Obligations.SnapshotReloadsWithinOnePeriod : Prop :=
  ∀ (s : State) (r : Regs), Ready s r → r.disp.ph ≠ .reserved → (r.disp.ph ≠ .hold → r.disp.cnt = 0) →
    countCycles isReset s.params.period s = 0 →
      ∃ (j : Nat) (t u : State) (q v : Regs) (o : Outputs), j < s.params.period ∧ run j s = .next t ∧
        t.regs = some q ∧ isWrap t = true ∧ run (j + 1) s = .next u ∧ u.regs = some v ∧
        v.disp.snap = resolve s.params.posMap q.mode.mode.page q.ctr.time ∧ v.disp.pos = 0 ∧
        outputs u = .ok o ∧ o.digit = v.disp.snap.p0

/-- The snapshot is loaded only at the end of a refresh cycle, whole, from PAGE and the digits of that one cycle, before
its edge; in every other cycle without a reset it is unchanged (10_state.md R28, 20_memory.md R43). -/
def Obligations.SnapshotLoadsOnlyAtTheWrap : Prop :=
  ∀ (s : State) (r : Regs), Ready s r → r.disp.ph ≠ .reserved → isReset s = false →
    ∃ (t : State) (q : Regs), step s = .next t ∧ t.regs = some q ∧
      q.disp.snap = (if isWrap s = true then resolve s.params.posMap r.mode.mode.page r.ctr.time else r.disp.snap)

/-! ### The outputs -/

/-- 10_state.md R32 and R33: each output is its function of the registers, and of nothing else. -/
def Obligations.OutputsAreAFunctionOfTheRegisters : Prop :=
  (∀ (s : State) (r : Regs), s.regs = some r →
    outputs s = .ok
      { ind := r.mode.mode.ind,
        sel := if r.disp.ph = .hold then 1#4 <<< r.disp.pos.val else 0b0000,
        digit := r.disp.snap.get r.disp.pos }) ∧
  (∀ s s' : State, s.regs = s'.regs → outputs s = outputs s')

/-- The DIGIT port carries a decimal digit in every safe state (30_encoding.md R52). -/
def Obligations.DigitPortCarriesADecimalDigit : Prop :=
  ∀ (s : State) (o : Outputs), StateSafe s → outputs s = .ok o → o.digit.toNat ≤ 9

/-! ### Reset -/

/-- 70_reset_and_hazards.md R139: RESET completes from every state of a well-formed configuration, NOVALUE and
corrupted ones too, and loads every register; from NOVALUE no other operation completes; its word, beside which no
CTR, MODE or MUX word is a row; its defaults and its example. -/
def Obligations.ResetLoadsEveryRegister : Prop :=
  (∀ s : State, s.params.wellFormed = true →
    ∃ q : Regs, exec .reset s = .next { s with regs := some q } ∧
      q.ctr = ⟨s.params.seed, 0⟩ ∧
      q.mode = ⟨s.params.resetMode, (currentInput s).changeTime, (currentInput s).upDown⟩ ∧
      q.disp = ⟨0, .write, 0, resolve s.params.posMap s.params.resetMode.page s.params.seed⟩) ∧
  (∀ (s t : State) (i : Instr), s.regs = none → exec i s = .next t → i = .reset) ∧
  decodeWord .rstw 0b1 = .ok .reset ∧
  (∀ (p : Params) (r : Regs) (i : Input), i.rst = true →
    decodeWord .ctr (ctrWord p r i) = .error (.noRow .ctr (ctrWord p r i)) ∧
    decodeWord .mode (modeWord r i) = .error (.noRow .mode (modeWord r i)) ∧
    decodeWord .mux (muxWord p r i) = .error (.noRow .mux (muxWord p r i))) ∧
  (∀ s : State, s.params.wellFormed = true → s.params.seed = Config.defaultSeed →
    s.params.resetMode = Config.defaultResetMode → s.params.posMap = Config.defaultPosMap →
    currentInput s = Input.ofVec 0x9 →
      ∃ q : Regs, exec .reset s = .next { s with regs := some q } ∧
        q.ctr = ⟨⟨2, 3, 5, 9, 3, 0⟩, 0⟩ ∧ q.mode = ⟨⟨.secondsView, .increment, true⟩, false, true⟩ ∧
        q.disp = ⟨0, .write, 0, ⟨5, 9, 3, 0⟩⟩)

/-- A cycle with RST = 1 performs RESET and nothing else, whatever TICK and the edges are (43_cycle.md section 1). That
the edge uses up the first of `inputs` and counts `cycle` on is the MODEL's own (DESIGN CHOICE, assumption 4). -/
def Obligations.ResetCyclePerformsResetAlone : Prop :=
  ∀ s : State, s.params.wellFormed = true → isReset s = true →
    ∃ t, exec .reset s = .next t ∧
      step s = .next { params := s.params, regs := t.regs, inputs := s.inputs.tail, cycle := s.cycle + 1 }

/-- RST held for any number of cycles leaves the reset state with the levels of the last of them (70_reset_and_hazards.md
R140). Where the placed vectors stand, and that `later` is left of them, is the MODEL's own (DESIGN CHOICE, assumption
4). -/
def Obligations.HeldResetKeepsTheLastLevels : Prop :=
  ∀ (s : State) (held : List Input) (last : Input) (later : List Input), s.params.wellFormed = true →
    s.inputs = held ++ last :: later → (∀ i ∈ held, i.rst = true) → last.rst = true →
      ∃ t, run (held.length + 1) s = .next t ∧ t.regs = some (resetRegs s.params last) ∧ t.inputs = later

/-- 70_reset_and_hazards.md R141: after reset, while the levels stay what they were in the last reset cycle, there is no
mode edge and the mode stays RESET_MODE, whatever row the levels select; with the default RESET_MODE the block counts
up on SecondsView. -/
def Obligations.SteadyLevelsAfterResetKeepTheMode : Prop :=
  ∀ (s₀ s : State) (steady later : List Input), isReset s₀ = true → step s₀ = .next s →
    s.inputs = steady ++ later →
    (∀ i ∈ steady, i.rst = false ∧ i.changeTime = (currentInput s₀).changeTime ∧
      i.upDown = (currentInput s₀).upDown) →
      ∃ (t : State) (q : Regs), run steady.length s = .next t ∧ t.regs = some q ∧
        countCycles isEdge steady.length s = 0 ∧ q.mode.mode = s.params.resetMode ∧
        (s.params.resetMode = Config.defaultResetMode → q.mode.mode.page = .secondsView ∧
          q.ctr.time.secs =
            (s.params.seed.secs + countCycles isTick steady.length s / s.params.nTicks) % 86400)

/-- `State.reset` is what one reset cycle leaves from NOVALUE under its configuration. The MODEL's choices in it: N_TICKS
= 2 and S = 2 (assumption 2), the levels of the reset cycle (assumption 3), and the number of the cycle (assumption 4). -/
def Obligations.StateResetIsOneResetCycle : Prop :=
  step { State.powerOn Config.defaultParams with inputs := [Input.ofVec 0x9] } = .next State.reset

/-! ### The cycle -/

/-- A step runs the decoded rows: with RST = 0, in a ready state, the three words of the cycle decode to three
operations, each runs on the state of the cycle, and the next state holds each family's registers as its own row left
them (43_cycle.md R112, R114); with RST = 1 the operation of RSTW runs alone. That the edge uses up the first of
`inputs` and counts `cycle` on is the MODEL's own (DESIGN CHOICE, assumption 4). -/
def Obligations.StepRunsTheDecodedRows : Prop :=
  (∀ (s : State) (r : Regs) (c m x : Instr) (sc sm sx : State) (rc rm rx : Regs), Ready s r → isReset s = false →
    decodeWord .ctr (ctrWord s.params r (currentInput s)) = .ok c →
    decodeWord .mode (modeWord r (currentInput s)) = .ok m →
    decodeWord .mux (muxWord s.params r (currentInput s)) = .ok x →
    exec c s = .next sc → exec m s = .next sm → exec x s = .next sx →
    sc.regs = some rc → sm.regs = some rm → sx.regs = some rx →
      step s = .next
        { params := s.params,
          regs := some { ctr := rc.ctr, mode := rm.mode, disp := rx.disp },
          inputs := s.inputs.tail,
          cycle := s.cycle + 1 }) ∧
  (∀ (s t : State) (i : Instr), decodeWord .rstw (rstwWord (currentInput s)) = .ok i → exec i s = .next t →
    step s = .next { params := t.params, regs := t.regs, inputs := t.inputs.tail, cycle := t.cycle + 1 })

/-- 43_cycle.md R117: on every legal state, for every input vector, a step answers a next state; what it leaves in the
registers depends on the configuration, the registers and the input of the cycle alone; a well-formed configuration's
step stops only in a fault; and a run whose first cycle is a reset meets none. -/
def Obligations.StepIsTotalAndDeterministic : Prop :=
  (∀ (s : State) (r : Regs), Ready s r → r.disp.ph ≠ .reserved → ∃ t, step s = .next t) ∧
  (∀ s s' t : State, s.params = s'.params → s.regs = s'.regs → currentInput s = currentInput s' →
    step s = .next t → ∃ t', step s' = .next t' ∧ t'.regs = t.regs ∧ t'.params = t.params) ∧
  (∀ s : State, s.params.wellFormed = true → (∃ t, step s = .next t) ∨ ∃ f, step s = .fault f) ∧
  (∀ (p : Params) (i : Input) (ins : List Input) (k : Nat), p.wellFormed = true → i.rst = true →
    RunsSafely k { State.powerOn p with inputs := i :: ins })

/-- The concurrent cycle is the same as its rows one after another in the order display, counter, mode, in which no row
sees a register that an earlier one wrote for it (43_cycle.md R112: the order of evaluation does not change the next
state). -/
def Obligations.RowsInReaderOrderGiveTheSameCycle : Prop :=
  ∀ (s : State) (r : Regs) (rows : Rows), Ready s r → isReset s = false →
    selectRows s.params r (currentInput s) = .ok rows →
      runRows s rows = andThen (exec rows.mux s) fun s₁ => andThen (exec rows.ctr s₁) fun s₂ => exec rows.mode s₂

/-- A step changes no parameter (10_state.md R30) and leaves registers. That it uses up one of `inputs` and counts
`cycle` on is the MODEL's own (DESIGN CHOICE, assumption 4). -/
def Obligations.StepKeepsTheParameters : Prop :=
  ∀ (s t : State), step s = .next t →
    t.params = s.params ∧ t.inputs = s.inputs.tail ∧ t.cycle = s.cycle + 1 ∧ t.regs ≠ none

/-! ### Invariants -/

/-- Every step keeps a safe state safe: valid digits, ACC, CNT and SNAP in range, no reserved phase, IND on exactly
under Increment, CNT 0 outside HOLD (10_state.md R18, R24, R27; 30_encoding.md R62). -/
def Obligations.StepKeepsStatesSafe : Prop :=
  ∀ (s t : State), StateSafe s → step s = .next t → StateSafe t

/-- The state after reset is safe, and its snapshot consistent. -/
def Obligations.ResetStateIsSafe : Prop :=
  StateSafe State.reset ∧ SnapConsistent State.reset

/-- Every step keeps the snapshot four digits of one valid time value (20_memory.md R43). -/
def Obligations.StepKeepsSnapshotsConsistent : Prop :=
  ∀ (s t : State), StateSafe s → SnapConsistent s → step s = .next t → SnapConsistent t

/-- 10_state.md R18 and R24, over every run of every well-formed configuration by any inputs: the digits are a valid
time, and IND = 1 exactly when DIR = Increment; a state whose digits are no valid time faults. -/
def Obligations.ReachableStatesAreSafe : Prop :=
  (∀ s : State, Reachable s → StateSafe s ∧ SnapConsistent s) ∧
    ∀ (s : State) (r : Regs), s.params.wellFormed = true → s.regs = some r → r.ctr.time.valid = false →
      isReset s = false → step s = .fault .digitOutOfRange

/-! ### Faults and refusals -/

/-- 60_exceptions.md R122: a step faults in the cases of the table and in no others, with the first that applies; an
output read faults before the first reset and at no other time; HOURS_TENS_NEGATIVE is never met; and CNT ≠ 0 outside
HOLD is rewritten by the next MUX row. -/
def Obligations.FaultsFollowTheTablesOrder : Prop :=
  (∀ (s : State) (f : Fault), s.params.wellFormed = true →
    (step s = .fault f ↔
      isReset s = false ∧
        (match s.regs with
        | none => f = .readBeforeReset
        | some r =>
          if r.ctr.time.valid = false then f = .digitOutOfRange
          else if s.params.nTicks ≤ r.ctr.acc then f = .accOutOfRange
          else if s.params.settle ≤ r.disp.cnt then f = .cntOutOfRange
          else if ∃ p : Fin 4, 9 < (r.disp.snap.get p).toNat then f = .snapOutOfRange
          else r.disp.ph = .reserved ∧ f = .reservedPhase))) ∧
  (∀ (s : State) (f : Fault), outputs s = .error f ↔ s.regs = none ∧ f = .readBeforeReset) ∧
  (∀ (t : Time) (sign : Int), adjust t sign ≠ .error .hoursTensNegative) ∧
  (∀ (s : State) (r : Regs), Ready s r → r.disp.ph ≠ .reserved → r.disp.ph ≠ .hold →
    ∃ (t : State) (q : Regs), step s = .next t ∧ t.regs = some q ∧ q.disp.cnt = 0)

/-- 00_scope.md R10: what a well-formed configuration is; any other is refused, by every operation and every step, and
nothing else is. -/
def Obligations.IllFormedConfigurationsAreRefused : Prop :=
  (∀ p : Params, p.wellFormed = true ↔
    1 ≤ p.nTicks ∧ 1 ≤ p.settle ∧ p.seed.valid = true ∧ (∃ ct ud, p.resetMode = decisionRow ct ud) ∧
      ∀ page : Page, (∀ pos : Fin 4, (p.posMap.row page).get pos ∈ page.digits) ∧
        ∀ n ∈ page.digits, ∃ pos : Fin 4, (p.posMap.row page).get pos = n ∧
          ∀ pos' : Fin 4, (p.posMap.row page).get pos' = n → pos' = pos) ∧
  (∀ (s : State) (i : Instr), s.params.wellFormed = false →
    exec i s = .refused .illFormedConfiguration ∧ step s = .refused .illFormedConfiguration) ∧
  (∀ (s : State) (x : Refusal), step s = .refused x → s.params.wellFormed = false ∧ x = .illFormedConfiguration)

/-- 10_state.md R34: before the first reset the state holds no register; every operation but RESET, every step without a
reset and every output read then faults. -/
def Obligations.ReadsBeforeResetFault : Prop :=
  (∀ p : Params, (State.powerOn p).regs = none) ∧
  (∀ (s : State) (i : Instr), s.params.wellFormed = true → s.regs = none →
    (i ≠ .reset → exec i s = .fault .readBeforeReset) ∧
      (isReset s = false → step s = .fault .readBeforeReset) ∧ outputs s = .error .readBeforeReset)
end

