-- ==== Sys2Proof/Laws/State.lean ====
section
/-! SUPPORT. One lemma per field per update of the state, each true by rfl, so that no proof unfolds a record update. -/

namespace Sys2Proof.Laws

open Sys2Proof.Machine

variable (s sc sm sx : State) (r rc rm rx : Regs) (c : CounterRegs) (m : ModeRegs) (d : DisplayRegs)

@[simp] theorem putCounter_params : (s.putCounter r c).params = s.params := rfl
@[simp] theorem putCounter_regs : (s.putCounter r c).regs = some { r with ctr := c } := rfl
@[simp] theorem putCounter_inputs : (s.putCounter r c).inputs = s.inputs := rfl
@[simp] theorem putCounter_cycle : (s.putCounter r c).cycle = s.cycle := rfl

@[simp] theorem putMode_params : (s.putMode r m).params = s.params := rfl
@[simp] theorem putMode_regs : (s.putMode r m).regs = some { r with mode := m } := rfl
@[simp] theorem putMode_inputs : (s.putMode r m).inputs = s.inputs := rfl
@[simp] theorem putMode_cycle : (s.putMode r m).cycle = s.cycle := rfl

@[simp] theorem putDisplay_params : (s.putDisplay r d).params = s.params := rfl
@[simp] theorem putDisplay_regs : (s.putDisplay r d).regs = some { r with disp := d } := rfl
@[simp] theorem putDisplay_inputs : (s.putDisplay r d).inputs = s.inputs := rfl
@[simp] theorem putDisplay_cycle : (s.putDisplay r d).cycle = s.cycle := rfl

@[simp] theorem advance_params : (advance s).params = s.params := rfl
@[simp] theorem advance_regs : (advance s).regs = s.regs := rfl
@[simp] theorem advance_inputs : (advance s).inputs = s.inputs.tail := rfl
@[simp] theorem advance_cycle : (advance s).cycle = s.cycle + 1 := rfl

@[simp] theorem mergeFamilies_params : (mergeFamilies s sc sm sx).params = s.params := rfl
@[simp] theorem mergeFamilies_inputs : (mergeFamilies s sc sm sx).inputs = s.inputs := rfl
@[simp] theorem mergeFamilies_cycle : (mergeFamilies s sc sm sx).cycle = s.cycle := rfl

/-- The merged registers are each family's own. -/
theorem mergeFamilies_regs (hc : sc.regs = some rc) (hm : sm.regs = some rm) (hx : sx.regs = some rx) :
    (mergeFamilies s sc sm sx).regs = some { ctr := rc.ctr, mode := rm.mode, disp := rx.disp } := by
  simp [mergeFamilies, hc, hm, hx]

@[simp] theorem powerOn_params (p : Params) : (State.powerOn p).params = p := rfl
@[simp] theorem powerOn_regs (p : Params) : (State.powerOn p).regs = none := rfl

/-- The input of a cycle with placed stimulus is its first vector. -/
@[simp] theorem currentInput_cons (p : Params) (g : Option Regs) (i : Input) (is : List Input) (t : Nat) :
    currentInput { params := p, regs := g, inputs := i :: is, cycle := t } = i := rfl

/-- The input of a cycle does not read the registers. -/
theorem currentInput_regs (g : Option Regs) : currentInput { s with regs := g } = currentInput s := rfl

@[simp] theorem resetRegs_ctr (p : Params) (i : Input) : (resetRegs p i).ctr = { time := p.seed, acc := 0 } := rfl
@[simp] theorem resetRegs_mode (p : Params) (i : Input) :
    (resetRegs p i).mode = { mode := p.resetMode, pct := i.changeTime, pud := i.upDown } := rfl
@[simp] theorem resetRegs_disp (p : Params) (i : Input) :
    (resetRegs p i).disp =
      { pos := 0, ph := .write, cnt := 0, snap := resolve p.posMap p.resetMode.page p.seed } := rfl

end Sys2Proof.Laws
end

