-- ==== Sys2Proof/Laws/Ops.lean ====
section
/-! SUPPORT. For each shared operation, what it can do, said once: callers cite these and do not unfold it. -/

namespace Sys2Proof.Laws

open Sys2Proof.Machine Sys2Proof.Safety

/-! ### Sequencing -/

@[simp] theorem andThen_next (s : State) (k : State → Result) : andThen (.next s) k = k s := rfl
@[simp] theorem andThen_fault (f : Fault) (k : State → Result) : andThen (.fault f) k = .fault f := rfl
@[simp] theorem andThen_refused (x : Refusal) (k : State → Result) : andThen (.refused x) k = .refused x := rfl

theorem andThen_eq_next {o : Result} {k : State → Result} {t : State} :
    andThen o k = .next t ↔ ∃ s, o = .next s ∧ k s = .next t := by
  cases o <;> simp [andThen]

/-! ### The checks before a row -/

theorem quad_any_iff (q : Quad Digit) :
    q.toList.any (fun d => decide (9 < d.toNat)) = false ↔ ∀ pos : Fin 4, (q.get pos).toNat ≤ 9 := by
  constructor
  · intro h pos
    simp [Quad.toList] at h
    fin_cases pos <;> simp [Quad.get] <;> omega
  · intro h
    have h0 := h 0
    have h1 := h 1
    have h2 := h 2
    have h3 := h 3
    simp [Quad.get] at h0 h1 h2 h3
    simp [Quad.toList]
    omega

/-- CheckLegal passes exactly when the registers are in range (60_exceptions.md R122). -/
theorem checkLegal_eq_none {p : Params} {r : Regs} :
    checkLegal p r = none ↔
      r.ctr.time.valid = true ∧ r.ctr.acc < p.nTicks ∧ r.disp.cnt < p.settle ∧
        ∀ pos : Fin 4, (r.disp.snap.get pos).toNat ≤ 9 := by
  rw [← quad_any_iff]
  unfold checkLegal
  cases hv : r.ctr.time.valid
  · simp
  · by_cases ha : p.nTicks ≤ r.ctr.acc
    · simp [ha]
    · by_cases hc : p.settle ≤ r.disp.cnt
      · simp [ha, hc]
      · have hlt : r.ctr.acc < p.nTicks ∧ r.disp.cnt < p.settle := by omega
        cases hq : r.disp.snap.toList.any (fun d => decide (9 < d.toNat)) <;> simp [ha, hc, hlt]

/-- The digits of ready registers are a valid time. -/
theorem checkLegal_valid {p : Params} {r : Regs} (h : checkLegal p r = none) : r.ctr.time.valid = true :=
  (checkLegal_eq_none.mp h).1

/-- On a ready state the checks pass and the row runs on the state's registers. -/
theorem checked_ready {s : State} {r : Regs} (h : Ready s r) (k : Regs → Result) : checked s k = k r := by
  obtain ⟨hw, hr, hl⟩ := h
  simp [checked, configured, hw, hr, hl]

/-- If a checked row answers next, then the state was ready and the row answered it. -/
theorem checked_eq_next {s : State} {k : Regs → Result} {t : State} :
    checked s k = .next t ↔ ∃ r, Ready s r ∧ k r = .next t := by
  constructor
  · intro h
    unfold checked configured at h
    split at h
    · rename_i hw
      split at h
      · cases h
      · rename_i r hr
        split at h
        · cases h
        · rename_i hl
          exact ⟨r, ⟨hw, hr, hl⟩, h⟩
    · cases h
  · rintro ⟨r, hready, hk⟩
    rw [checked_ready hready, hk]

theorem checked_illFormed {s : State} (h : s.params.wellFormed = false) (k : Regs → Result) :
    checked s k = .refused .illFormedConfiguration := by
  simp [checked, configured, h]

theorem checked_noValue {s : State} (hw : s.params.wellFormed = true) (h : s.regs = none) (k : Regs → Result) :
    checked s k = .fault .readBeforeReset := by
  simp [checked, configured, hw, h]

theorem checked_illegal {s : State} {r : Regs} {f : Fault} (hw : s.params.wellFormed = true) (hr : s.regs = some r)
    (hf : checkLegal s.params r = some f) (k : Regs → Result) : checked s k = .fault f := by
  simp [checked, configured, hw, hr, hf]

/-- The registers of a ready state are the ones it holds. -/
theorem ready_unique {s : State} {r r' : Regs} (h : Ready s r) (h' : Ready s r') : r = r' :=
  Option.some.inj (h.2.1.symm.trans h'.2.1)

theorem wellFormed_nTicks {p : Params} (h : p.wellFormed = true) : 1 ≤ p.nTicks := by
  simp [Params.wellFormed] at h
  omega

theorem wellFormed_settle {p : Params} (h : p.wellFormed = true) : 1 ≤ p.settle := by
  simp [Params.wellFormed] at h
  omega

theorem wellFormed_seed {p : Params} (h : p.wellFormed = true) : p.seed.valid = true := by
  simp [Params.wellFormed] at h
  exact h.1.1.1.2

theorem wellFormed_resetMode {p : Params} (h : p.wellFormed = true) :
    ∃ ct ud, p.resetMode = decisionRow ct ud := by
  simp [Params.wellFormed, decisionTable] at h
  obtain ⟨⟨⟨-, h⟩, -⟩, -⟩ := h
  rcases h with h | h | h | h
  · exact ⟨true, true, h⟩
  · exact ⟨true, false, h⟩
  · exact ⟨false, true, h⟩
  · exact ⟨false, false, h⟩

/-! ### The digit rules of the adjustment -/

/-- The units rule brings a digit that one step took out of range back into range, and what it passes on makes up the
difference (40_counter.md R75). -/
theorem unitsRule_spec {v : Int} (hl : -1 ≤ v) (hu : v ≤ 10) :
    0 ≤ (unitsRule v).1 ∧ (unitsRule v).1 ≤ 9 ∧ (unitsRule v).1 + 10 * (unitsRule v).2 = v ∧
      -1 ≤ (unitsRule v).2 ∧ (unitsRule v).2 ≤ 1 ∧ ((unitsRule v).2 = 1 → v = 10) ∧ ((unitsRule v).2 = -1 → v = -1) := by
  unfold unitsRule
  split
  · simp; omega
  · split <;> simp <;> omega

/-- The same for the tens rule, bound 5 (40_counter.md R76). -/
theorem tensRule_spec {v : Int} (hl : -1 ≤ v) (hu : v ≤ 6) :
    0 ≤ (tensRule v).1 ∧ (tensRule v).1 ≤ 5 ∧ (tensRule v).1 + 6 * (tensRule v).2 = v ∧
      -1 ≤ (tensRule v).2 ∧ (tensRule v).2 ≤ 1 ∧ ((tensRule v).2 = 1 → v = 6) ∧ ((tensRule v).2 = -1 → v = -1) := by
  unfold tensRule
  split
  · simp; omega
  · split <;> simp <;> omega

/-- What the units rule passes on, for every integer: a borrow exactly below 0, a carry exactly above 9. -/
theorem unitsRule_passes (v : Int) :
    ((unitsRule v).2 = -1 ↔ v < 0) ∧ ((unitsRule v).2 = 1 ↔ v > 9) ∧ -1 ≤ (unitsRule v).2 ∧ (unitsRule v).2 ≤ 1 := by
  unfold unitsRule
  split
  · simp; omega
  · split <;> simp <;> omega

/-- The same for the tens rule. -/
theorem tensRule_passes (v : Int) :
    ((tensRule v).2 = -1 ↔ v < 0) ∧ ((tensRule v).2 = 1 ↔ v > 5) ∧ -1 ≤ (tensRule v).2 ∧ (tensRule v).2 ≤ 1 := by
  unfold tensRule
  split
  · simp; omega
  · split <;> simp <;> omega

/-- The hours rule takes HT below 0 only by a borrow from HT = 0 (40_counter.md R77). -/
theorem hoursRule_neg {ht hu : Int} (h0 : 0 ≤ ht) (h : (hoursRule ht hu).1 < 0) : ht = 0 ∧ hu < 0 := by
  revert h
  simp only [hoursRule, hoursCarry, hoursRollover, hoursBorrow]
  split_ifs <;> simp_all <;> omega

/-- The hours rule on a valid hours pair and a carry or borrow: the pair's value goes on by it, 24 becoming 0, except for
the borrow from 00, which takes HT to -1 (40_counter.md R77). -/
theorem hoursRule_spec {ht hu c : Int} (h0 : 0 ≤ ht) (h1 : ht ≤ 2) (h2 : 0 ≤ hu) (h3 : hu ≤ 9)
    (h4 : ht = 2 → hu ≤ 3) (hc : -1 ≤ c) (hc' : c ≤ 1) :
    let h := hoursRule ht (hu + c)
    h.1 ≤ 2 ∧ 0 ≤ h.2 ∧ h.2 ≤ 9 ∧ (h.1 = 2 → h.2 ≤ 3) ∧
      10 * h.1 + h.2 = (if 10 * ht + hu + c = 24 then 0 else 10 * ht + hu + c) := by
  simp only [hoursRule, hoursCarry, hoursRollover, hoursBorrow]
  split_ifs <;> simp_all <;> omega

/-- A digit register holds an in-range integer as itself (00_scope.md R11). -/
theorem digitOf_toNat {v : Int} (h0 : 0 ≤ v) (h1 : v ≤ 15) : ((digitOf v).toNat : Int) = v := by
  simp only [digitOf, BitVec.toNat_ofInt]
  omega

/-! ### The cycle -/

/-- RSTW selects RESET exactly in a reset cycle (30_encoding.md R56). -/
theorem decodeWord_rstw (i : Input) :
    decodeWord .rstw (rstwWord i) = if i.rst then .ok .reset else .error (.noRow .rstw 0) := by
  cases h : i.rst <;> simp only [rstwWord, h] <;> rfl

/-- What a cycle does with RST = 1. -/
theorem cycleEffect_of_rst {s : State} (h : (currentInput s).rst = true) : cycleEffect s = exec .reset s := by
  simp [cycleEffect, decodeWord_rstw, h]

/-- What a cycle does with RST = 0. -/
theorem cycleEffect_of_not_rst {s : State} (h : (currentInput s).rst = false) :
    cycleEffect s = checked s (runSelected s) := by
  simp [cycleEffect, decodeWord_rstw, h]

/-- The selected rows answer next exactly when the words select rows and those rows answer it. -/
theorem runSelected_eq_next {s t : State} {r : Regs} :
    runSelected s r = .next t ↔
      ∃ rows, selectRows s.params r (currentInput s) = .ok rows ∧ runRows s rows = .next t := by
  unfold runSelected
  cases selectRows s.params r (currentInput s) <;> simp

/-- A step that answers next did the cycle's effect and ended the cycle. -/
theorem step_eq_next {s t : State} : step s = .next t ↔ ∃ u, cycleEffect s = .next u ∧ t = advance u := by
  simp only [step, clockCycle, andThen_eq_next]
  constructor
  · rintro ⟨u, hu, h⟩
    cases h
    exact ⟨u, hu, rfl⟩
  · rintro ⟨u, hu, rfl⟩
    exact ⟨u, hu, rfl⟩

/-- The concurrent rows answer next exactly when each row does on the state of the cycle, and give the merged writes. -/
theorem runRows_eq_next {s t : State} {rows : Rows} :
    runRows s rows = .next t ↔
      ∃ sc sm sx, exec rows.ctr s = .next sc ∧ exec rows.mode s = .next sm ∧ exec rows.mux s = .next sx ∧
        t = mergeFamilies s sc sm sx := by
  simp only [runRows, andThen_eq_next]
  constructor
  · rintro ⟨sx, hx, sc, hc, sm, hm, h⟩
    cases h
    exact ⟨sc, sm, sx, hc, hm, hx, rfl⟩
  · rintro ⟨sc, sm, sx, hc, hm, hx, rfl⟩
    exact ⟨sx, hx, sc, hc, sm, hm, rfl⟩

/-! ### Runs -/

@[simp] theorem run_zero (s : State) : run 0 s = .next s := rfl

/-- A run of one more cycle is a step and then the run. -/
theorem run_succ (k : Nat) (s : State) : run (k + 1) s = andThen (step s) (run k) := rfl

/-- One more cycle of the host's run of a machine. -/
theorem core_run_succ (M : Host.Core) (k : Nat) (s : M.State) :
    (∀ t, M.step s = .next t → M.run (k + 1) s = M.run k t) ∧
      (∀ f, M.step s = .fault f → M.run (k + 1) s = .fault f) ∧
      (∀ x, M.step s = .refused x → M.run (k + 1) s = .refused x) := by
  refine ⟨fun t h => ?_, fun f h => ?_, fun x h => ?_⟩ <;> simp [Host.Core.run, h]

/-- The run is the host's run of the machine. -/
theorem core_run_eq_run (k : Nat) : ∀ s : State, Sys2Proof.core.run k s = run k s := by
  induction k with
  | zero => intro s; rfl
  | succ k ih =>
    intro s
    obtain ⟨hn, hf, hx⟩ := core_run_succ Sys2Proof.core k s
    rw [run_succ]
    cases h : step s with
    | next t => exact (hn t h).trans (ih t)
    | fault f => exact hf f h
    | refused x => exact hx x h

/-- A run of a + b cycles is a run of a cycles and then one of b. -/
theorem run_add (a b : Nat) (s : State) : run (a + b) s = andThen (run a s) (run b) := by
  induction a generalizing s with
  | zero => simp
  | succ a ih =>
    rw [Nat.add_right_comm, run_succ, run_succ]
    cases step s <;> simp [ih]

/-- The count of the cycles of a run with a property, one cycle at a time. -/
theorem countCycles_succ (P : State → Bool) (k : Nat) (s t : State) (h : step s = .next t) :
    countCycles P (k + 1) s = (P s).toNat + countCycles P k t := by
  simp [countCycles, h]

end Sys2Proof.Laws
end

