-- ==== Sys2Proof/Laws/PerInstr.lean ====
section
/-! SUPPORT. What holds of every operation, one lemma per constructor: its decode word fits the format's width
(30_encoding.md R63). -/

namespace Sys2Proof.Laws.EncodeFits

/-- The decode word of an operation has no bit above its format's width (30_encoding.md R63). -/
def Statement (i : Instr) : Prop :=
  encode i < 2 ^ i.format.width

theorem reset : Statement .reset := by unfold Statement; decide
theorem ctrIdle (accLast dir : Bool) : Statement (.ctrIdle accLast dir) := by
  cases accLast <;> cases dir <;> (unfold Statement; decide)
theorem tickCount (dir : Bool) : Statement (.tickCount dir) := by
  cases dir <;> (unfold Statement; decide)
theorem adjustDec : Statement .adjustDec := by unfold Statement; decide
theorem adjustInc : Statement .adjustInc := by unfold Statement; decide
theorem modeHold (ct ud : Bool) : Statement (.modeHold ct ud) := by
  cases ct <;> cases ud <;> (unfold Statement; decide)
theorem modeSecondsDec : Statement .modeSecondsDec := by unfold Statement; decide
theorem modeSecondsInc : Statement .modeSecondsInc := by unfold Statement; decide
theorem modeHoursDec : Statement .modeHoursDec := by unfold Statement; decide
theorem modeHoursInc : Statement .modeHoursInc := by unfold Statement; decide
theorem muxWrite (last wrap : Bool) : Statement (.muxWrite last wrap) := by
  cases last <;> cases wrap <;> (unfold Statement; decide)
theorem muxHoldStay (wrap : Bool) : Statement (.muxHoldStay wrap) := by
  cases wrap <;> (unfold Statement; decide)
theorem muxHoldEnd (wrap : Bool) : Statement (.muxHoldEnd wrap) := by
  cases wrap <;> (unfold Statement; decide)
theorem muxOffNext (last : Bool) : Statement (.muxOffNext last) := by
  cases last <;> (unfold Statement; decide)
theorem muxOffWrap (last : Bool) : Statement (.muxOffWrap last) := by
  cases last <;> (unfold Statement; decide)
theorem muxReserved (last wrap : Bool) : Statement (.muxReserved last wrap) := by
  cases last <;> cases wrap <;> (unfold Statement; decide)

end Sys2Proof.Laws.EncodeFits
end

