-- ==== Sys2Proof/Tests/Slice0.lean ====
section
/-! SUPPORT. Tests: expected values from the spec's encodings (30_encoding.md R60), the examples of the operation rules
and the vectors of 95_test_vectors.md (named in the docstrings), one step each; and for every obligation with hypotheses
a concrete state and operands that meet them all. -/

namespace Sys2Proof.Tests

open Sys2Proof.Machine Sys2Proof.Safety

/-! ### Helpers -/

/-- The reset state, its registers changed, with IN digits (30_encoding.md R65) placed. -/
def state (f : Regs → Regs) (ins : List Nat) : State :=
  { State.reset with regs := State.reset.regs.map f, inputs := ins.map Input.ofVec }

/-- The registers of the reset state, changed. -/
def regs (f : Regs → Regs) : Regs :=
  f (resetRegs Config.defaultParams (Input.ofVec 0x9))

/-- The reset state under other parameters, with its digits, ACC and the placed IN digits. -/
def stateWith (p : Params) (time : Nat) (acc : Nat) (ins : List Nat) : State :=
  { params := p
    regs := some { resetRegs p (Input.ofVec 0x9) with ctr := { time := Time.ofWord (BitVec.ofNat 24 time), acc := acc } }
    inputs := ins.map Input.ofVec
    cycle := 1 }

def withCtr (time : Nat) (acc : Nat) (r : Regs) : Regs :=
  { r with ctr := { time := Time.ofWord (BitVec.ofNat 24 time), acc := acc } }

def withLevels (pct pud : Bool) (r : Regs) : Regs :=
  { r with mode := { r.mode with pct := pct, pud := pud } }

def withMode (m : Mode) (r : Regs) : Regs :=
  { r with mode := { r.mode with mode := m } }

def withSeq (pos : Fin 4) (ph : Phase) (cnt : Nat) (r : Regs) : Regs :=
  { r with disp := { r.disp with pos := pos, ph := ph, cnt := cnt } }

def withSnap (q : Quad Digit) (r : Regs) : Regs :=
  { r with disp := { r.disp with snap := q } }

/-- The registers of a next state. -/
def regsOf (o : Result) : Option Regs :=
  match o with
  | .next t => t.regs
  | .fault _ => none
  | .refused _ => none

/-- The fault of an outcome. -/
def faultOf (o : Result) : Option Fault :=
  match o with
  | .next _ => none
  | .fault f => some f
  | .refused _ => none

/-- The refusal of an outcome. -/
def refusalOf (o : Result) : Option Refusal :=
  match o with
  | .next _ => none
  | .fault _ => none
  | .refused x => some x

/-- The value of an adjustment, as a TIME word (30_encoding.md R50). -/
def adjustedTo (before after : Nat) (sign : Int) : Bool :=
  match adjust (Time.ofWord (BitVec.ofNat 24 before)) sign with
  | .ok t => t.word == BitVec.ofNat 24 after
  | .error _ => false

/-! ### Well-formed and ill-formed terms -/

/-- The defaults with N_TICKS = 3 and S = 1 (vector B1). -/
def paramsB1 : Params := { Config.defaultParams with nTicks := 3, settle := 1 }

theorem test_wellformed_configurations_accepted :
    Config.defaultParams.wellFormed = true ∧ paramsB1.wellFormed = true := by decide

/-- Vectors F15 and F16, and the least legal values beside them. -/
theorem test_wellformed_refuses_zero_counts :
    { Config.defaultParams with nTicks := 0 }.wellFormed = false ∧
      { Config.defaultParams with settle := 0 }.wellFormed = false ∧
      { Config.defaultParams with nTicks := 1, settle := 1 }.wellFormed = true := by decide

/-- Vector F17: SEED 24:00:00, and SEED with ST = 6. -/
theorem test_wellformed_refuses_invalid_seed :
    { Config.defaultParams with seed := ⟨2, 4, 0, 0, 0, 0⟩ }.wellFormed = false ∧
      { Config.defaultParams with seed := ⟨0, 0, 0, 0, 6, 0⟩ }.wellFormed = false := by decide

/-- Vector F18: (HoursView, Increment, off). -/
theorem test_wellformed_refuses_reset_mode_off_the_table :
    { Config.defaultParams with resetMode := ⟨.hoursView, .increment, false⟩ }.wellFormed = false := by decide

/-- Vector F19, and the same fault on the hours page. -/
theorem test_wellformed_refuses_position_map :
    { Config.defaultParams with posMap := { Config.defaultPosMap with secondsView := ⟨.mt, .mt, .st, .su⟩ } }.wellFormed
        = false ∧
      { Config.defaultParams with posMap := { Config.defaultPosMap with hoursView := ⟨.ht, .hu, .mt, .su⟩ } }.wellFormed
        = false := by decide

/-- R66: a script begins with a reset line that gives both levels. -/
theorem test_script_form :
    scriptWellFormed [.line .reset (some false) (some true) 1] = true ∧
      scriptWellFormed [.line .reset none (some true) 1] = false ∧
      scriptWellFormed [.line .tick (some false) (some true) 1] = false ∧ scriptWellFormed [] = false := by decide

/-- The scripts of E5 and P3 and their IN digits, from 95_test_vectors.md. -/
theorem test_scripts_assemble :
    assemble Config.defaultParams [.line .reset (some false) (some true) 1, .mode true true, .mode false false,
        .mode true false] = some ([0x9, 0x3, 0x0, 0x2].map Input.ofVec) ∧
      assemble Config.defaultParams [.line .reset (some false) (some true) 1, .line .tick none (some false) 5] =
        some ([0x9, 0x4, 0x4, 0x4, 0x4, 0x4].map Input.ofVec) := by decide

/-! ### Decoding: words written out from the operation map of 30_encoding.md R60 -/

theorem test_decode_rstw : decodeWord .rstw 0b1 = .ok .reset ∧ decodeWord .rstw 0b0 = .error (.noRow .rstw 0) := by
  decide

theorem test_decode_ctr :
    decodeWord .ctr 0b0010 = .ok (.ctrIdle true false) ∧ decodeWord .ctr 0b0001 = .ok (.ctrIdle false true) ∧
      decodeWord .ctr 0b0100 = .ok (.tickCount false) ∧ decodeWord .ctr 0b0101 = .ok (.tickCount true) ∧
      decodeWord .ctr 0b0110 = .ok .adjustDec ∧ decodeWord .ctr 0b0111 = .ok .adjustInc ∧
      decodeWord .ctr 0b1111 = .error (.noRow .ctr 0b1111) ∧
      decodeWord .ctr 0b10000 = .error (.tooWide .ctr 0b10000) := by decide

theorem test_decode_mode :
    decodeWord .mode 0b0010 = .ok (.modeHold true false) ∧ decodeWord .mode 0b0100 = .ok .modeSecondsDec ∧
      decodeWord .mode 0b0101 = .ok .modeSecondsInc ∧ decodeWord .mode 0b0110 = .ok .modeHoursDec ∧
      decodeWord .mode 0b0111 = .ok .modeHoursInc ∧ decodeWord .mode 0b1000 = .error (.noRow .mode 0b1000) := by
  decide

theorem test_decode_mux :
    decodeWord .mux 0b01000 = .ok (.muxWrite true false) ∧ decodeWord .mux 0b00101 = .ok (.muxHoldStay true) ∧
      decodeWord .mux 0b01001 = .ok (.muxHoldEnd false) ∧ decodeWord .mux 0b01010 = .ok (.muxOffNext true) ∧
      decodeWord .mux 0b00110 = .ok (.muxOffWrap false) ∧ decodeWord .mux 0b00111 = .ok (.muxReserved false true) ∧
      decodeWord .mux 0b10000 = .error (.noRow .mux 0b10000) := by decide

/-- R57 to R59: the words of the reset state in a tick cycle, ACC = 0 of N_TICKS = 2, CNT = 0 of S = 2, and of the same
state one count on. -/
theorem test_decode_words :
    ctrWord Config.defaultParams (regs id) (Input.ofVec 0x5) = 0b0101 ∧
      ctrWord Config.defaultParams (regs (withCtr 0x235930 1)) (Input.ofVec 0x5) = 0b0111 ∧
      modeWord (regs id) (Input.ofVec 0x5) = 0b0001 ∧ modeWord (regs id) (Input.ofVec 0x2) = 0b0110 ∧
      muxWord Config.defaultParams (regs id) (Input.ofVec 0x5) = 0b00000 ∧
      muxWord Config.defaultParams (regs (withSeq 3 .hold 1)) (Input.ofVec 0x5) = 0b01101 := by decide

/-- The rows whose match no earlier row of the table has: read from the table word, and run as the first cycle after
reset (assumption 8). -/
theorem test_table_words :
    decodeTableWord 8 0b1 = some .reset ∧ decodeTableWord 8 0b0110 = some .adjustDec ∧
      decodeTableWord 8 0b01001 = some (.muxHoldEnd false) ∧
      regsOf (step (State.reset.withFetchWord 8 0b0110)) =
        some { ctr := ⟨⟨2, 3, 5, 9, 2, 9⟩, 0⟩
               mode := ⟨⟨.hoursView, .decrement, false⟩, true, false⟩
               disp := ⟨0, .write, 0, ⟨5, 9, 3, 0⟩⟩ } := by decide

/-! ### The counter family -/

/-- Vectors A1 to A17. -/
theorem test_adjust_inc :
    [(0x000000, 0x000001), (0x000008, 0x000009), (0x000009, 0x000010), (0x000059, 0x000100), (0x000959, 0x001000),
      (0x005959, 0x010000), (0x095959, 0x100000), (0x105959, 0x110000), (0x195959, 0x200000), (0x225959, 0x230000),
      (0x235930, 0x235931), (0x235958, 0x235959), (0x235959, 0x000000), (0x123456, 0x123457), (0x015959, 0x020000),
      (0x123459, 0x123500), (0x035959, 0x040000)].all (fun v => adjustedTo v.1 v.2 1) = true := by decide

/-- Vectors A18 to A34. -/
theorem test_adjust_dec :
    [(0x000000, 0x000000), (0x000001, 0x000000), (0x000010, 0x000009), (0x000100, 0x000059), (0x001000, 0x000959),
      (0x010000, 0x005959), (0x100000, 0x095959), (0x200000, 0x195959), (0x235959, 0x235958), (0x120000, 0x115959),
      (0x000101, 0x000100), (0x230000, 0x225959), (0x000030, 0x000029), (0x090000, 0x085959), (0x210000, 0x205959),
      (0x000110, 0x000109), (0x005900, 0x005859)].all (fun v => adjustedTo v.1 v.2 (-1)) = true := by decide

/-- The example of R69: ACC = 2 and 12:34:56 stay. -/
theorem test_ctr_idle :
    (regsOf (step (stateWith paramsB1 0x123456 2 [0x1]))).map (·.ctr) = some ⟨⟨1, 2, 3, 4, 5, 6⟩, 2⟩ := by decide

/-- The example of R70: N_TICKS = 3, ACC = 0. -/
theorem test_tick_count :
    (regsOf (step (stateWith paramsB1 0x235930 0 [0x5]))).map (·.ctr) = some ⟨⟨2, 3, 5, 9, 3, 0⟩, 1⟩ := by decide

/-- The example of R71 (vector B1, cycle 4). -/
theorem test_adjust_inc_row :
    (regsOf (step (stateWith paramsB1 0x235930 2 [0x5]))).map (·.ctr) = some ⟨⟨2, 3, 5, 9, 3, 1⟩, 0⟩ := by decide

/-- Vector C1, cycle 2: a tick and an edge to Increment together; the tick uses the old DIR. -/
theorem test_tick_with_edge_uses_old_direction :
    (regsOf (step (state
      (fun r => withLevels false false (withMode ⟨.secondsView, .decrement, false⟩ (withCtr 0x100000 1 r))) [0x5]))).map
      (fun q => (q.ctr, q.mode.mode)) =
        some (⟨⟨0, 9, 5, 9, 5, 9⟩, 0⟩, ⟨.secondsView, .increment, true⟩) := by decide

/-! ### The mode family -/

/-- Vectors V1 to V16: previous PCT and PUD, IN, and the mode after; PCT and PUD take the levels of IN. -/
theorem test_mode_rows :
    [(false, false, 0x0, Mode.mk .secondsView .increment true), (false, false, 0x1, ⟨.secondsView, .increment, true⟩),
      (false, false, 0x2, ⟨.hoursView, .decrement, false⟩), (false, false, 0x3, ⟨.hoursView, .increment, true⟩),
      (false, true, 0x0, ⟨.secondsView, .decrement, false⟩), (false, true, 0x1, ⟨.secondsView, .increment, true⟩),
      (false, true, 0x2, ⟨.hoursView, .decrement, false⟩), (false, true, 0x3, ⟨.hoursView, .increment, true⟩),
      (true, false, 0x0, ⟨.secondsView, .decrement, false⟩), (true, false, 0x1, ⟨.secondsView, .increment, true⟩),
      (true, false, 0x2, ⟨.secondsView, .increment, true⟩), (true, false, 0x3, ⟨.hoursView, .increment, true⟩),
      (true, true, 0x0, ⟨.secondsView, .decrement, false⟩), (true, true, 0x1, ⟨.secondsView, .increment, true⟩),
      (true, true, 0x2, ⟨.hoursView, .decrement, false⟩), (true, true, 0x3, ⟨.secondsView, .increment, true⟩)].all
      (fun v => (regsOf (step (state (withLevels v.1 v.2.1) [v.2.2.1]))).map (·.mode) ==
        some ⟨v.2.2.2, (Input.ofVec v.2.2.1).changeTime, (Input.ofVec v.2.2.1).upDown⟩) = true := by decide

/-! ### The display family -/

/-- R102 to R105: the examples, at S = 2 (vector M1, cycles 1 to 4). -/
theorem test_mux_rows :
    (regsOf (step (state (withSeq 2 .write 0) [0x1]))).map (·.disp) = some ⟨2, .hold, 0, ⟨5, 9, 3, 0⟩⟩ ∧
      (regsOf (step (state (withSeq 1 .hold 0) [0x1]))).map (·.disp) = some ⟨1, .hold, 1, ⟨5, 9, 3, 0⟩⟩ ∧
      (regsOf (step (state (withSeq 0 .hold 1) [0x1]))).map (·.disp) = some ⟨0, .off, 0, ⟨5, 9, 3, 0⟩⟩ ∧
      (regsOf (step (state (withSeq 1 .off 0) [0x1]))).map (·.disp) = some ⟨2, .write, 0, ⟨5, 9, 3, 0⟩⟩ := by decide

/-- R106: the example's page and digits; and vector M3b, a tick in the wrap cycle that the snapshot does not see. -/
theorem test_mux_off_wrap :
    (regsOf (step (state (fun r => withSeq 3 .off 0 (withMode ⟨.hoursView, .increment, true⟩ (withCtr 0x120034 0 r)))
        [0x1]))).map (·.disp) = some ⟨0, .write, 0, ⟨1, 2, 0, 0⟩⟩ ∧
      (regsOf (step (state (fun r => withSeq 3 .off 0 (withCtr 0x000000 1 r)) [0x5]))).map
        (fun q => (q.ctr.time.su, q.disp.snap.p3)) = some (1, 0) := by decide

/-- R32: the outputs in WRITE, HOLD and OFF at position 2 (the examples of R102 to R105). -/
theorem test_outputs :
    outputs (state (withSeq 2 .write 0) []) = .ok ⟨true, 0b0000, 3⟩ ∧
      outputs (state (withSeq 2 .hold 1) []) = .ok ⟨true, 0b0100, 3⟩ ∧
      outputs (state (withSeq 2 .off 0) []) = .ok ⟨true, 0b0000, 3⟩ := by decide

/-! ### Reset -/

/-- Vectors R1 and R2: from NOVALUE by IN 0x9 and 0xE. -/
theorem test_reset_from_novalue :
    regsOf (step { State.powerOn Config.defaultParams with inputs := [Input.ofVec 0x9] }) = State.reset.regs ∧
      regsOf (step { State.powerOn Config.defaultParams with inputs := [Input.ofVec 0xE] }) =
        some (regs (withLevels true false)) := by decide

/-- Vectors R4 and F11: from the reserved phase and from an illegal digit. -/
theorem test_reset_checks_nothing :
    regsOf (step (state (withSeq 0 .reserved 0) [0x9])) = State.reset.regs ∧
      regsOf (step (state (withCtr 0x23593A 0) [0x9])) = State.reset.regs := by decide

/-! ### Faults and refusals -/

/-- Vectors F1 and F2. -/
theorem test_read_before_reset :
    faultOf (step { State.powerOn Config.defaultParams with inputs := [Input.ofVec 0x1] }) = some .readBeforeReset ∧
      outputs (State.powerOn Config.defaultParams) = .error .readBeforeReset := by decide

/-- Vectors F3 to F7. -/
theorem test_counter_faults :
    faultOf (step (state (withCtr 0x23593A 0) [0x1])) = some .digitOutOfRange ∧
      faultOf (step (state (withCtr 0x240000 0) [0x1])) = some .digitOutOfRange ∧
      faultOf (step (state (withCtr 0x235960 0) [0x1])) = some .digitOutOfRange ∧
      faultOf (step (state (withCtr 0x235930 2) [0x5])) = some .accOutOfRange ∧
      faultOf (step (state (withCtr 0x235C30 2) [0x5])) = some .digitOutOfRange := by decide

/-- Vectors F8 to F10. -/
theorem test_display_faults :
    faultOf (step (state (withSeq 0 .hold 2) [0x1])) = some .cntOutOfRange ∧
      faultOf (step (state (withSnap ⟨5, 12, 3, 0⟩) [0x1])) = some .snapOutOfRange ∧
      faultOf (step (state (withSeq 0 .reserved 0) [0x1])) = some .reservedPhase := by decide

/-- Vectors F12 to F14: no fault. -/
theorem test_unchecked_registers :
    (regsOf (step (state (withMode ⟨.secondsView, .increment, false⟩) [0x1]))).map (·.mode.mode) =
        some ⟨.secondsView, .increment, false⟩ ∧
      (regsOf (step (state (withSeq 0 .write 1) [0x1]))).map (fun q => (q.disp.ph, q.disp.cnt)) = some (.hold, 0) ∧
      (regsOf (step (state (withSnap ⟨7, 9, 3, 0⟩) [0x1]))).map (·.disp.snap) = some ⟨7, 9, 3, 0⟩ := by decide

/-- Vector F15: the step of a configuration that is not well-formed, in a reset cycle too. -/
theorem test_illformed_configuration_refused :
    refusalOf (step (stateWith { Config.defaultParams with nTicks := 0 } 0x235930 0 [0x9])) =
      some .illFormedConfiguration := by decide

/-! ### Witnesses: the hypotheses of the obligations are met -/

/-- The reset state with one idle cycle, a tick or a change of level placed, and its registers. -/
abbrev idleState : State := state id [0x1]
abbrev tickState : State := state (withCtr 0x235959 1) [0x5]
abbrev edgeState : State := state id [0x2]
abbrev resetState : State := state id [0x9]

/-- Sixteen idle cycles: one refresh period at S = 2. -/
def idles : List Nat := List.replicate 16 0x1

theorem ready_idle : Ready idleState (regs id) := ⟨by decide, rfl, by decide⟩

theorem witness_WordsSelectExactlyOneRow :
    (Format.ctr ≠ .rstw ∧ 0b0111 < 2 ^ Format.ctr.width ∧ (0b0111).testBit 3 = false) ∧
      (Format.mux ≠ .rstw ∧ 0b11111 < 2 ^ Format.mux.width ∧ (0b11111).testBit 4 = true) ∧
      isReset resetState = true := by decide

theorem witness_SelectedRowsFollowTheStepBranches : (Input.ofVec 0x7).rst = false ∧ (Input.ofVec 0x9).rst = true := by
  decide

/-- Of CtrIdleWritesNothing, ModeHoldKeepsTheMode, EdgeRowsWriteTheDecisionTable and HoldRowsMoveTheSequencer. -/
theorem witness_ready : ∃ (s : State) (r : Regs), Ready s r := ⟨_, _, ready_idle⟩

/-- ACC = N_TICKS - 2, the last value that a tick counts on. -/
theorem witness_TickCountCountsOneTick :
    ∃ (s : State) (r : Regs), Ready s r ∧ r.ctr.acc ≠ s.params.nTicks - 1 ∧ r.ctr.acc + 2 = s.params.nTicks :=
  ⟨_, _, ready_idle, by decide, by decide⟩

/-- At both ends of the day. -/
theorem witness_AdjustIncWritesTheNextSecond : ∃ (s : State) (r : Regs), Ready s r ∧ r.ctr.time.secs = 86399 :=
  ⟨tickState, regs (withCtr 0x235959 1), ⟨by decide, rfl, by decide⟩, by decide⟩

theorem witness_AdjustDecWritesThePreviousSecond : ∃ (s : State) (r : Regs), Ready s r ∧ r.ctr.time.secs = 0 :=
  ⟨state (withCtr 0 1) [0x5], regs (withCtr 0 1), ⟨by decide, rfl, by decide⟩, by decide⟩

/-- Of IncrementIsSuccessorModuloADay, DecrementIsPredecessorSaturatedAtZero and ValidTimesAreTheSecondsOfADay. -/
theorem witness_valid_times :
    (⟨0, 0, 0, 0, 0, 0⟩ : Time).valid = true ∧ (⟨2, 3, 5, 9, 5, 9⟩ : Time).valid = true ∧
      (⟨2, 3, 5, 9, 5, 9⟩ : Time).secs = 86399 ∧ (⟨1, 9, 5, 9, 5, 9⟩ : Time).valid = true := by decide

theorem witness_SaturationGuardHoldsMidnight :
    let t : Time := ⟨0, 0, 0, 0, 0, 0⟩
    (-1 : Int) = -1 ∧ t.ht = 0 ∧ t.hu = 0 ∧ t.mt = 0 ∧ t.mu = 0 ∧ t.st = 0 ∧ (t.su.toNat : Int) + -1 < 0 ∧
      t.valid = true := by decide

theorem witness_AdjustKeepsTimesValid :
    (⟨2, 3, 5, 9, 5, 9⟩ : Time).valid = true ∧ adjust ⟨2, 3, 5, 9, 5, 9⟩ 1 = .ok ⟨0, 0, 0, 0, 0, 0⟩ := by decide

/-- One valid time for each clause, with the last value of its carry. -/
theorem witness_IncrementCarriesDigitByDigit :
    [Time.mk 2 3 5 9 5 8, ⟨2, 3, 5, 9, 4, 9⟩, ⟨2, 3, 5, 8, 5, 9⟩, ⟨2, 3, 4, 9, 5, 9⟩, ⟨2, 3, 5, 9, 5, 9⟩,
      ⟨1, 9, 5, 9, 5, 9⟩, ⟨2, 2, 5, 9, 5, 9⟩].all Time.valid = true := by decide

/-- One valid time for each clause, with the last value of its borrow. -/
theorem witness_DecrementBorrowsDigitByDigit :
    [Time.mk 0 0 0 0 0 1, ⟨0, 0, 0, 0, 1, 0⟩, ⟨0, 0, 0, 1, 0, 0⟩, ⟨0, 0, 1, 0, 0, 0⟩, ⟨0, 1, 0, 0, 0, 0⟩,
      ⟨1, 0, 0, 0, 0, 0⟩, ⟨0, 0, 0, 0, 0, 0⟩].all Time.valid = true := by decide

/-- A threshold tick in one cycle with an edge, under Increment and under Decrement. -/
theorem witness_ThresholdTickUsesTheOldDirection :
    (∃ (s : State) (r : Regs), Ready s r ∧ r.disp.ph ≠ .reserved ∧ isReset s = false ∧ isTick s = true ∧
      r.ctr.acc = s.params.nTicks - 1 ∧ r.mode.mode.dir = .increment ∧ isEdge s = true) ∧
    (∃ (s : State) (r : Regs), Ready s r ∧ r.disp.ph ≠ .reserved ∧ isReset s = false ∧ isTick s = true ∧
      r.ctr.acc = s.params.nTicks - 1 ∧ r.mode.mode.dir = .decrement ∧ isEdge s = false) :=
  ⟨⟨state (withCtr 0x235959 1) [0x4], regs (withCtr 0x235959 1), ⟨by decide, rfl, by decide⟩, by decide⟩,
   ⟨state (fun r => withMode ⟨.secondsView, .decrement, false⟩ (withCtr 0 1 r)) [0x5],
    regs (fun r => withMode ⟨.secondsView, .decrement, false⟩ (withCtr 0 1 r)), ⟨by decide, rfl, by decide⟩, by decide⟩⟩

/-- N_TICKS = 5 needs three bits, S = 1 one. -/
theorem witness_CountsFitTheirWidths :
    let p : Params := { Config.defaultParams with nTicks := 5, settle := 1 }
    1 ≤ p.nTicks ∧ 1 ≤ p.settle ∧ 1 < p.accWidth ∧ 4 < p.nTicks ∧ 0 < p.settle ∧
      1 < { p with settle := 5 }.cntWidth := by decide

/-- A reset and then a tick, an idle cycle and a tick: two ticks at N_TICKS = 2. -/
theorem witness_AdjustmentsFallOnEveryNthTick :
    ∃ s, isReset (state id [0x9, 0x5, 0x1, 0x5]) = true ∧ step (state id [0x9, 0x5, 0x1, 0x5]) = .next s ∧
      countCycles isReset 3 s = 0 ∧ countCycles isTick 3 s = 2 :=
  ⟨_, rfl, rfl, by decide, by decide⟩

/-- Two ticks, in both directions. -/
theorem witness_TicksBecomeSeconds :
    (∃ (s : State) (r : Regs), Ready s r ∧ r.disp.ph ≠ .reserved ∧ countCycles isReset 2 s = 0 ∧
      countCycles isEdge 2 s = 0 ∧ r.mode.mode.dir = .increment ∧ countCycles isTick 2 s = 2) ∧
    (∃ (s : State) (r : Regs), Ready s r ∧ r.disp.ph ≠ .reserved ∧ countCycles isReset 2 s = 0 ∧
      countCycles isEdge 2 s = 0 ∧ r.mode.mode.dir = .decrement ∧ countCycles isTick 2 s = 2) :=
  ⟨⟨state id [0x5, 0x5], regs id, ⟨by decide, rfl, by decide⟩, by decide⟩,
   ⟨state (withMode ⟨.secondsView, .decrement, false⟩) [0x5, 0x5], regs (withMode ⟨.secondsView, .decrement, false⟩),
    ⟨by decide, rfl, by decide⟩, by decide⟩⟩

theorem witness_SecondAddsOneSecond :
    ∃ (s : State) (r : Regs) (later : List Input), Ready s r ∧ r.disp.ph ≠ .reserved ∧ r.mode.mode.dir = .increment ∧
      s.inputs = ((ScriptLine.second 1).inputs s.params r.mode.pct r.mode.pud).1 ++ later :=
  ⟨state id [0x5, 0x5, 0x1], regs id, [Input.ofVec 0x1], ⟨by decide, rfl, by decide⟩, by decide⟩

theorem witness_EveryCycleSamplesTheLevels : ∃ t, step edgeState = .next t := ⟨_, rfl⟩

/-- A cycle with an edge and one without. -/
theorem witness_OnlyEdgesRewriteTheMode :
    (∃ (s : State) (r : Regs), Ready s r ∧ r.disp.ph ≠ .reserved ∧ isReset s = false ∧ isEdge s = true) ∧
      (∃ (s : State) (r : Regs), Ready s r ∧ r.disp.ph ≠ .reserved ∧ isReset s = false ∧ isEdge s = false) :=
  ⟨⟨edgeState, regs id, ⟨by decide, rfl, by decide⟩, by decide⟩, ⟨_, _, ready_idle, by decide⟩⟩

/-- A reset, an edge and an idle cycle; and a reset and two cycles without an edge. -/
theorem witness_ModeIsTheLastEdgesRow :
    (∃ s, isReset (state id [0x9, 0x2, 0x2]) = true ∧ step (state id [0x9, 0x2, 0x2]) = .next s ∧
      countCycles isReset 2 s = 0 ∧ countCycles isEdge 2 s = 1 ∧ run 0 s = .next s ∧ isEdge s = true ∧
      ∃ v, step s = .next v ∧ countCycles isEdge 1 v = 0) ∧
    (∃ s, step (state id [0xA, 0x2, 0x2]) = .next s ∧ countCycles isReset 2 s = 0 ∧ countCycles isEdge 2 s = 0) :=
  ⟨⟨_, rfl, rfl, by decide, by decide, rfl, by decide, _, rfl, by decide⟩, ⟨_, rfl, by decide, by decide⟩⟩

/-- Vector V17: UP_DOWN drops for one cycle. -/
theorem witness_OneCyclePulseMakesTwoEdges :
    ∃ (s : State) (r : Regs) (i₁ i₂ : Input) (later : List Input), Ready s r ∧ r.disp.ph ≠ .reserved ∧
      s.inputs = i₁ :: i₂ :: later ∧ i₁.rst = false ∧ i₂.rst = false ∧
      (i₁.changeTime ≠ r.mode.pct ∨ i₁.upDown ≠ r.mode.pud) ∧ i₂.changeTime = r.mode.pct ∧ i₂.upDown = r.mode.pud :=
  ⟨state id [0x0, 0x1], regs id, Input.ofVec 0x0, Input.ofVec 0x1, [], ⟨by decide, rfl, by decide⟩, by decide⟩

/-- At position 2, the last from which MUX_OFF_NEXT goes on. -/
theorem witness_OffRowsMoveToTheNextPosition : ∃ (s : State) (r : Regs), Ready s r ∧ r.disp.pos = 2 :=
  ⟨state (withSeq 2 .off 0) [0x1], regs (withSeq 2 .off 0), ⟨by decide, rfl, by decide⟩, by decide⟩

/-- The reserved phase, ready but for it, where CTR_IDLE answers next and keeps it; and a reachable state. -/
theorem witness_ReservedPhaseFaults :
    (∃ (s t : State) (r q : Regs), Ready s r ∧ exec (.ctrIdle false true) s = .next t ∧ t.regs = some q ∧
      q.disp.ph = .reserved) ∧ ∃ (s : State) (r : Regs), Reachable s ∧ s.regs = some r :=
  ⟨⟨state (withSeq 0 .reserved 0) [0x1], state (withSeq 0 .reserved 0) [0x1], regs (withSeq 0 .reserved 0),
      regs (withSeq 0 .reserved 0), ⟨by decide, rfl, by decide⟩, rfl, rfl, rfl⟩,
    ⟨_, _, ⟨Config.defaultParams, [Input.ofVec 0x9], 1, by decide, rfl⟩, rfl⟩⟩

theorem witness_FamiliesWriteOnlyTheirOwnRegisters :
    (∃ t, exec .adjustInc tickState = .next t) ∧ (∃ t, exec .modeHoursDec edgeState = .next t) ∧
      (∃ t, exec (.muxWrite false false) idleState = .next t) ∧ ∃ t, exec .reset resetState = .next t :=
  ⟨⟨_, rfl⟩, ⟨_, rfl⟩, ⟨_, rfl⟩, ⟨_, rfl⟩⟩

/-- The reset state begins a refresh cycle of 16 cycles; the reset cycle of the second clause. -/
theorem witness_RefreshCycleDrivesEachPosition :
    (∃ (s : State) (r : Regs), Ready s r ∧ r.disp.pos = 0 ∧ r.disp.ph = .write ∧ r.disp.cnt = 0 ∧
      countCycles isReset s.params.period s = 0 ∧ 15 < s.params.period) ∧
    (resetState.params.wellFormed = true ∧ isReset resetState = true) :=
  ⟨⟨state id idles, regs id, ⟨by decide, rfl, by decide⟩, by decide⟩, by decide⟩

theorem witness_SelIsBlankOrOneHot : ∃ (s : State) (r : Regs), s.regs = some r ∧ r.disp.ph = .hold :=
  ⟨state (withSeq 3 .hold 1) [], regs (withSeq 3 .hold 1), rfl, rfl⟩

/-- A cycle in which DIGIT changes (OFF at position 0), and one in which SEL changes (WRITE). -/
theorem witness_DigitChangesOnlyWhileBlank :
    (∃ (s t : State) (r : Regs) (a b : Outputs), Ready s r ∧ r.disp.ph ≠ .reserved ∧ isReset s = false ∧
      step s = .next t ∧ outputs s = .ok a ∧ outputs t = .ok b ∧ a.digit ≠ b.digit) ∧
    (∃ (s t : State) (r : Regs) (a b : Outputs), Ready s r ∧ r.disp.ph ≠ .reserved ∧ isReset s = false ∧
      step s = .next t ∧ outputs s = .ok a ∧ outputs t = .ok b ∧ a.sel ≠ b.sel) :=
  ⟨⟨state (withSeq 0 .off 0) [0x1], _, regs (withSeq 0 .off 0), _, _, ⟨by decide, rfl, by decide⟩, by decide, rfl, rfl,
      rfl, rfl, by decide⟩,
   ⟨idleState, _, regs id, _, _, ready_idle, by decide, rfl, rfl, rfl, rfl, by decide⟩⟩

/-- Of SequencerReturnsAfterOnePeriod and SnapshotReloadsWithinOnePeriod: from the last HOLD cycle of position 3. -/
theorem witness_one_period :
    ∃ (s : State) (r : Regs), Ready s r ∧ r.disp.ph ≠ .reserved ∧ (r.disp.ph ≠ .hold → r.disp.cnt = 0) ∧
      countCycles isReset s.params.period s = 0 :=
  ⟨state (withSeq 3 .hold 1) idles, regs (withSeq 3 .hold 1), ⟨by decide, rfl, by decide⟩, by decide⟩

/-- The wrap cycle, and a cycle that is none. -/
theorem witness_SnapshotLoadsOnlyAtTheWrap :
    (∃ (s : State) (r : Regs), Ready s r ∧ r.disp.ph ≠ .reserved ∧ isReset s = false ∧ isWrap s = true) ∧
      (∃ (s : State) (r : Regs), Ready s r ∧ r.disp.ph ≠ .reserved ∧ isReset s = false ∧ isWrap s = false) :=
  ⟨⟨state (withSeq 3 .off 0) [0x1], regs (withSeq 3 .off 0), ⟨by decide, rfl, by decide⟩, by decide⟩,
   ⟨_, _, ready_idle, by decide⟩⟩

theorem witness_OutputsAreAFunctionOfTheRegisters :
    (∃ (s : State) (r : Regs), s.regs = some r) ∧ ∃ s s' : State, s.regs = s'.regs ∧ s ≠ s' :=
  ⟨⟨idleState, _, rfl⟩, ⟨idleState, tickState.putDisplay (regs id) (regs id).disp, by decide⟩⟩

theorem regsSafe_reset : RegsSafe Config.defaultParams (regs id) := by
  unfold RegsSafe; decide

theorem stateSafe_idle : StateSafe idleState :=
  ⟨by decide, fun _ h => Option.some.inj h ▸ regsSafe_reset⟩

theorem snapConsistent_idle : SnapConsistent idleState :=
  fun _ h => Option.some.inj h ▸ ⟨.secondsView, ⟨2, 3, 5, 9, 3, 0⟩, by decide, by decide⟩

theorem witness_DigitPortCarriesADecimalDigit : ∃ (s : State) (o : Outputs), StateSafe s ∧ outputs s = .ok o :=
  ⟨_, _, stateSafe_idle, rfl⟩

/-- From NOVALUE, under the defaults, with IN = 0x9: every clause's hypotheses. -/
theorem witness_ResetLoadsEveryRegister :
    ∃ s t : State, s.params.wellFormed = true ∧ s.params.seed = Config.defaultSeed ∧
      s.params.resetMode = Config.defaultResetMode ∧ s.params.posMap = Config.defaultPosMap ∧
      currentInput s = Input.ofVec 0x9 ∧ (currentInput s).rst = true ∧ s.regs = none ∧ exec .reset s = .next t :=
  ⟨{ State.powerOn Config.defaultParams with inputs := [Input.ofVec 0x9] }, _, by decide, rfl, rfl, rfl, rfl, rfl, rfl,
    rfl⟩

/-- Of ResetCyclePerformsResetAlone: a reset cycle with a tick and a change of both levels. -/
theorem witness_ResetCyclePerformsResetAlone :
    (state id [0xE]).params.wellFormed = true ∧ isReset (state id [0xE]) = true := by decide

theorem witness_HeldResetKeepsTheLastLevels :
    ∃ (s : State) (held : List Input) (last : Input) (later : List Input), s.params.wellFormed = true ∧
      s.inputs = held ++ last :: later ∧ (∀ i ∈ held, i.rst = true) ∧ last.rst = true :=
  ⟨state id [0x9, 0xC, 0xA, 0x1], [0x9, 0xC].map Input.ofVec, Input.ofVec 0xA, [Input.ofVec 0x1], by decide⟩

/-- Levels (1, 0) at reset and after it, which select another row than RESET_MODE. -/
theorem witness_SteadyLevelsAfterResetKeepTheMode :
    ∃ (s₀ s : State) (steady later : List Input), isReset s₀ = true ∧ step s₀ = .next s ∧ s.inputs = steady ++ later ∧
      (∀ i ∈ steady, i.rst = false ∧ i.changeTime = (currentInput s₀).changeTime ∧
        i.upDown = (currentInput s₀).upDown) ∧ s.params.resetMode = Config.defaultResetMode :=
  ⟨state id [0xA, 0x2, 0x6], _, [0x2, 0x6].map Input.ofVec, [], rfl, rfl, rfl, by decide, rfl⟩

/-- A cycle with a threshold tick and an edge, and a reset cycle: every hypothesis of both clauses. -/
theorem witness_StepRunsTheDecodedRows :
    (∃ (s : State) (r : Regs) (sc sm sx : State) (rc rm rx : Regs), Ready s r ∧ isReset s = false ∧
      decodeWord .ctr (ctrWord s.params r (currentInput s)) = .ok .adjustInc ∧
      decodeWord .mode (modeWord r (currentInput s)) = .ok .modeSecondsDec ∧
      decodeWord .mux (muxWord s.params r (currentInput s)) = .ok (.muxWrite false false) ∧
      exec .adjustInc s = .next sc ∧ exec .modeSecondsDec s = .next sm ∧ exec (.muxWrite false false) s = .next sx ∧
      sc.regs = some rc ∧ sm.regs = some rm ∧ sx.regs = some rx) ∧
    (∃ t, decodeWord .rstw (rstwWord (currentInput resetState)) = .ok .reset ∧ exec .reset resetState = .next t) :=
  ⟨⟨state (withCtr 0x235959 1) [0x4], regs (withCtr 0x235959 1), _, _, _, _, _, _, ⟨by decide, rfl, by decide⟩, by decide,
      by decide, by decide, by decide, rfl, rfl, rfl, rfl, rfl, rfl⟩,
   ⟨_, by decide, rfl⟩⟩

theorem witness_StepIsTotalAndDeterministic :
    (∃ (s : State) (r : Regs), Ready s r ∧ r.disp.ph ≠ .reserved) ∧
      (∃ s s' t : State, s ≠ s' ∧ s.params = s'.params ∧ s.regs = s'.regs ∧ currentInput s = currentInput s' ∧
        step s = .next t) ∧
      (Config.defaultParams.wellFormed = true ∧ (Input.ofVec 0x9).rst = true) :=
  ⟨⟨_, _, ready_idle, by decide⟩, ⟨idleState, state id [0x1, 0x1], _, by decide, rfl, rfl, rfl, rfl⟩, by decide⟩

theorem witness_RowsInReaderOrderGiveTheSameCycle :
    ∃ (s : State) (r : Regs) (rows : Rows), Ready s r ∧ isReset s = false ∧
      selectRows s.params r (currentInput s) = .ok rows :=
  ⟨_, _, _, ready_idle, by decide, rfl⟩

/-- Of StepKeepsTheParameters, StepKeepsStatesSafe and StepKeepsSnapshotsConsistent. -/
theorem witness_safe_steps : ∃ s t : State, StateSafe s ∧ SnapConsistent s ∧ step s = .next t :=
  ⟨idleState, _, stateSafe_idle, snapConsistent_idle, rfl⟩

/-- A reachable state, and a state whose digits are no valid time. -/
theorem witness_ReachableStatesAreSafe :
    (∃ (s : State) (r : Regs), Reachable s ∧ s.regs = some r) ∧
      (∃ (s : State) (r : Regs), s.params.wellFormed = true ∧ s.regs = some r ∧ r.ctr.time.valid = false ∧
        isReset s = false) :=
  ⟨⟨_, _, ⟨Config.defaultParams, [Input.ofVec 0x9], 1, by decide, rfl⟩, rfl⟩,
   ⟨state (withCtr 0x240000 0) [0x1], regs (withCtr 0x240000 0), by decide, rfl, by decide, by decide⟩⟩

/-- A ready state in OFF with CNT = 1, which no run reaches; the faults of the other clauses are tested above. -/
theorem witness_FaultsFollowTheTablesOrder :
    ∃ (s : State) (r : Regs), s.params.wellFormed = true ∧ Ready s r ∧ r.disp.ph ≠ .reserved ∧ r.disp.ph ≠ .hold ∧
      r.disp.cnt = 1 :=
  ⟨state (withSeq 0 .off 1) [0x1], regs (withSeq 0 .off 1), by decide, ⟨by decide, rfl, by decide⟩, by decide⟩

/-- S = 0, the one value below the legal ones; and a step that is refused. -/
theorem witness_IllFormedConfigurationsAreRefused :
    ∃ (s : State) (x : Refusal), s.params.wellFormed = false ∧ step s = .refused x :=
  ⟨stateWith { Config.defaultParams with settle := 0 } 0x235930 0 [0x1], _, by decide, rfl⟩

theorem witness_ReadsBeforeResetFault :
    ∃ s : State, s.params.wellFormed = true ∧ s.regs = none ∧ isReset s = false :=
  ⟨{ State.powerOn Config.defaultParams with inputs := [Input.ofVec 0x1] }, by decide⟩

end Sys2Proof.Tests
end

section
/-! Configurations and refusals (00_scope.md R10). First what a well-formed configuration is, part by part; then, for
each shared operation, the row and the step, when it is refused. -/

namespace Sys2Proof.Proofs

open Sys2Proof.Machine Sys2Proof.Safety Sys2Proof.Laws

/-! ### Well-formed configurations -/

theorem quad_toList_eq_ofFn {α : Type} (q : Quad α) : q.toList = List.ofFn q.get := rfl

theorem mem_quad_toList {α : Type} {q : Quad α} {a : α} : a ∈ q.toList ↔ ∃ pos : Fin 4, q.get pos = a := by
  rw [quad_toList_eq_ofFn, List.mem_ofFn']
  rfl

/-- Four positions that show all four digits of a page show each of them once. -/
theorem quad_get_injective_of_digits_subset {q : Quad DigitName} {page : Page} (h : page.digits ⊆ q.toList) :
    Function.Injective q.get := by
  have hnodup : page.digits.Nodup := by cases page <;> decide
  have hlength : q.toList.length ≤ page.digits.length := by cases page <;> exact le_rfl
  have hperm : page.digits.Perm q.toList := (hnodup.subperm h).perm_of_length_le hlength
  rw [← List.nodup_ofFn, ← quad_toList_eq_ofFn]
  exact hperm.nodup_iff.mp hnodup

theorem bijectiveOn_iff {m : PosMap} {page : Page} :
    m.bijectiveOn page = true ↔
      (∀ pos : Fin 4, (m.row page).get pos ∈ page.digits) ∧
        ∀ n ∈ page.digits, ∃ pos : Fin 4, (m.row page).get pos = n ∧
          ∀ pos' : Fin 4, (m.row page).get pos' = n → pos' = pos := by
  simp only [PosMap.bijectiveOn, Bool.and_eq_true, List.all_eq_true, List.contains_iff_mem]
  constructor
  · rintro ⟨hinto, honto⟩
    refine ⟨fun pos => hinto _ (mem_quad_toList.mpr ⟨pos, rfl⟩), fun n hn => ?_⟩
    obtain ⟨pos, rfl⟩ := mem_quad_toList.mp (honto n hn)
    exact ⟨pos, rfl, fun pos' h => quad_get_injective_of_digits_subset honto h⟩
  · rintro ⟨hinto, honto⟩
    constructor
    · intro n hn
      obtain ⟨pos, rfl⟩ := mem_quad_toList.mp hn
      exact hinto pos
    · intro n hn
      obtain ⟨pos, hpos, -⟩ := honto n hn
      exact mem_quad_toList.mpr ⟨pos, hpos⟩

theorem mem_decisionTable {m : Mode} : m ∈ decisionTable ↔ ∃ ct ud, m = decisionRow ct ud := by
  simp only [decisionTable, List.mem_cons, List.not_mem_nil, or_false, Bool.exists_bool]
  tauto

theorem wellFormed_iff {p : Params} :
    p.wellFormed = true ↔
      1 ≤ p.nTicks ∧ 1 ≤ p.settle ∧ p.seed.valid = true ∧ (∃ ct ud, p.resetMode = decisionRow ct ud) ∧
        ∀ page : Page, p.posMap.bijectiveOn page = true := by
  have hpages : (∀ page : Page, p.posMap.bijectiveOn page = true) ↔
      p.posMap.bijectiveOn .secondsView = true ∧ p.posMap.bijectiveOn .hoursView = true :=
    ⟨fun h => ⟨h _, h _⟩, fun ⟨hs, hh⟩ page => by cases page <;> assumption⟩
  simp only [Params.wellFormed, Bool.and_eq_true, decide_eq_true_eq, List.contains_iff_mem, mem_decisionTable, hpages,
    and_assoc]

/-! ### Refusal of the shared operations -/

theorem andThen_eq_refused {o : Result} {k : State → Result} {x : Refusal} :
    andThen o k = .refused x ↔ o = .refused x ∨ ∃ s, o = .next s ∧ k s = .refused x := by
  cases o <;> simp [andThen]

theorem configured_eq_refused {s : State} {k : Result} {x : Refusal} :
    configured s k = .refused x ↔
      (s.params.wellFormed = false ∧ x = .illFormedConfiguration) ∨ (s.params.wellFormed = true ∧ k = .refused x) := by
  cases h : s.params.wellFormed <;> simp [configured, h, eq_comm]

/-- The checks refuse an ill-formed configuration and nothing else; what they let pass, the row answers. -/
theorem checked_eq_refused {s : State} {k : Regs → Result} {x : Refusal} :
    checked s k = .refused x ↔
      (s.params.wellFormed = false ∧ x = .illFormedConfiguration) ∨ ∃ r, Ready s r ∧ k r = .refused x := by
  rw [checked, configured_eq_refused]
  refine or_congr_right ⟨?_, ?_⟩
  · rintro ⟨hw, h⟩
    split at h
    · cases h
    next r hr =>
      split at h
      · cases h
      next hl => exact ⟨r, ⟨hw, hr, hl⟩, h⟩
  · rintro ⟨r, ⟨hw, hr, hl⟩, h⟩
    simp [hw, hr, hl, h]

/-- A checked row that itself refuses nothing is refused exactly under an ill-formed configuration. -/
theorem checked_eq_refused_iff_illFormed {s : State} {k : Regs → Result} (hk : ∀ r x, Ready s r → k r ≠ .refused x)
    {x : Refusal} :
    checked s k = .refused x ↔ s.params.wellFormed = false ∧ x = .illFormedConfiguration := by
  rw [checked_eq_refused]
  exact or_iff_left fun ⟨r, hready, h⟩ => hk r x hready h

theorem applyAdjust_ne_refused (s : State) (r : Regs) (step : Int) (x : Refusal) :
    applyAdjust s r step ≠ .refused x := by
  unfold applyAdjust
  split <;> simp

/-! ### Refusal of a row -/

/-- Every row but RESET is a row behind the checks that itself refuses nothing (60_exceptions.md R122). -/
theorem exec_eq_checked {i : Instr} (hi : i ≠ .reset) (s : State) :
    ∃ k : Regs → Result, exec i s = checked s k ∧ ∀ r x, k r ≠ .refused x := by
  cases i with
  | reset => exact absurd rfl hi
  | adjustDec => exact ⟨_, rfl, fun r x => applyAdjust_ne_refused s r _ x⟩
  | adjustInc => exact ⟨_, rfl, fun r x => applyAdjust_ne_refused s r _ x⟩
  | _ => exact ⟨_, rfl, fun _ _ => by simp⟩

theorem exec_reset_eq_refused {s : State} {x : Refusal} :
    exec .reset s = .refused x ↔ s.params.wellFormed = false ∧ x = .illFormedConfiguration := by
  change execReset s = _ ↔ _
  simp [execReset, configured_eq_refused]

/-- Every row is refused exactly under an ill-formed configuration (00_scope.md R10). -/
theorem exec_eq_refused {i : Instr} {s : State} {x : Refusal} :
    exec i s = .refused x ↔ s.params.wellFormed = false ∧ x = .illFormedConfiguration := by
  by_cases hi : i = .reset
  · subst hi
    exact exec_reset_eq_refused
  · obtain ⟨k, hexec, hk⟩ := exec_eq_checked hi s
    rw [hexec]
    exact checked_eq_refused_iff_illFormed fun r x _ => hk r x

/-! ### The words of a cycle with RST = 0 select rows -/

/-- Every CTR, MODE and MUX word whose top bit, RST, is 0 decodes (30_encoding.md R61). -/
theorem decodeWord_isOk_of_top_bit_clear {f : Format} {w : Nat} (hf : f ≠ .rstw) (hw : w < 2 ^ (f.width - 1)) :
    ∃ i, decodeWord f w = .ok i := by
  cases f with
  | rstw => exact absurd rfl hf
  | ctr => simp only [Format.width] at hw; interval_cases w <;> exact ⟨_, rfl⟩
  | mode => simp only [Format.width] at hw; interval_cases w <;> exact ⟨_, rfl⟩
  | mux => simp only [Format.width] at hw; interval_cases w <;> exact ⟨_, rfl⟩

theorem ctrWord_lt_of_not_rst {p : Params} {r : Regs} {i : Input} (h : i.rst = false) : ctrWord p r i < 8 := by
  have hdir := r.mode.mode.dir.code.isLt
  have htick := i.tick.toNat_le
  have hlast := (accLast p r).toNat_le
  simp only [ctrWord, h, Bool.toNat_false]
  omega

theorem modeWord_lt_of_not_rst {r : Regs} {i : Input} (h : i.rst = false) : modeWord r i < 8 := by
  have hedge := (edgeNow r i).toNat_le
  have hct := i.changeTime.toNat_le
  have hud := i.upDown.toNat_le
  simp only [modeWord, h, Bool.toNat_false]
  omega

theorem muxWord_lt_of_not_rst {p : Params} {r : Regs} {i : Input} (h : i.rst = false) : muxWord p r i < 16 := by
  have hph := r.disp.ph.code.isLt
  have hlast := (cntLast p r).toNat_le
  have hwrap := (posWrap r).toNat_le
  simp only [muxWord, h, Bool.toNat_false]
  omega

theorem selectRows_isOk_of_not_rst (p : Params) (r : Regs) {i : Input} (h : i.rst = false) :
    ∃ rows, selectRows p r i = .ok rows := by
  obtain ⟨c, hc⟩ := decodeWord_isOk_of_top_bit_clear (f := .ctr) (by decide) (ctrWord_lt_of_not_rst (p := p) (r := r) h)
  obtain ⟨m, hm⟩ := decodeWord_isOk_of_top_bit_clear (f := .mode) (by decide) (modeWord_lt_of_not_rst (r := r) h)
  obtain ⟨x, hx⟩ := decodeWord_isOk_of_top_bit_clear (f := .mux) (by decide) (muxWord_lt_of_not_rst (p := p) (r := r) h)
  exact ⟨⟨c, m, x⟩, by simp only [selectRows, hc, hm, hx]; rfl⟩

/-! ### Refusal of a step -/

/-- The rows of a cycle are refused only where each row is: under an ill-formed configuration. -/
theorem illFormed_of_runRows_eq_refused {s : State} {rows : Rows} {x : Refusal} (h : runRows s rows = .refused x) :
    s.params.wellFormed = false := by
  simp only [runRows, andThen_eq_refused, exec_eq_refused] at h
  obtain ⟨hw, -⟩ | ⟨_, -, ⟨hw, -⟩ | ⟨_, -, ⟨hw, -⟩ | ⟨_, -, hmerge⟩⟩⟩ := h
  · exact hw
  · exact hw
  · exact hw
  · cases hmerge

theorem runSelected_ne_refused {s : State} {r : Regs} {x : Refusal} (hrst : (currentInput s).rst = false)
    (hw : s.params.wellFormed = true) : runSelected s r ≠ .refused x := by
  obtain ⟨rows, hrows⟩ := selectRows_isOk_of_not_rst s.params r hrst
  intro h
  simp only [runSelected, hrows] at h
  simp [illFormed_of_runRows_eq_refused h] at hw

theorem cycleEffect_eq_refused {s : State} {x : Refusal} :
    cycleEffect s = .refused x ↔ s.params.wellFormed = false ∧ x = .illFormedConfiguration := by
  cases hrst : (currentInput s).rst with
  | true => rw [cycleEffect_of_rst hrst, exec_eq_refused]
  | false =>
    rw [cycleEffect_of_not_rst hrst]
    exact checked_eq_refused_iff_illFormed fun r x ⟨hw, _, _⟩ => runSelected_ne_refused hrst hw

/-- A step is refused exactly under an ill-formed configuration (00_scope.md R10, 60_exceptions.md R123). -/
theorem step_eq_refused {s : State} {x : Refusal} :
    step s = .refused x ↔ s.params.wellFormed = false ∧ x = .illFormedConfiguration := by
  simp [step, clockCycle, andThen_eq_refused, cycleEffect_eq_refused]

/-- Settles O57: the parts of `Params.wellFormed` give the first clause; the equivalences `exec_eq_refused` and
`step_eq_refused` give the other two. -/
theorem illFormedConfigurationsAreRefused : Obligations.IllFormedConfigurationsAreRefused := by
  refine ⟨fun p => ?_, fun s i hw => ?_, fun s x h => step_eq_refused.mp h⟩
  · simp only [wellFormed_iff, bijectiveOn_iff]
  · exact ⟨exec_eq_refused.mpr ⟨hw, rfl⟩, step_eq_refused.mpr ⟨hw, rfl⟩⟩

end Sys2Proof.Proofs
end

section
/-! The next registers of a cycle with RST = 0, as functions of the configuration, the registers and the input alone:
the row each family's word selects, what that row writes, and the step that puts the three writes together
(43_cycle.md R114, R116). -/

namespace Sys2Proof.Proofs

open Sys2Proof.Machine Sys2Proof.Safety Sys2Proof.Laws

/-! ### The rows of a cycle -/

/-- The CTR row that the Step pseudocode picks (43_cycle.md R114, R116). -/
def ctrRow (p : Params) (r : Regs) (i : Input) : Instr :=
  if i.tick = true then
    if r.ctr.acc = p.nTicks - 1 then
      if r.mode.mode.dir = .increment then .adjustInc else .adjustDec
    else .tickCount (decide (r.mode.mode.dir = .increment))
  else .ctrIdle (decide (r.ctr.acc = p.nTicks - 1)) (decide (r.mode.mode.dir = .increment))

/-- The MODE row that the Step pseudocode picks. -/
def modeRow (r : Regs) (i : Input) : Instr :=
  if i.changeTime ≠ r.mode.pct ∨ i.upDown ≠ r.mode.pud then
    if i.changeTime = true then
      if i.upDown = true then .modeHoursInc else .modeHoursDec
    else if i.upDown = true then .modeSecondsInc else .modeSecondsDec
  else .modeHold i.changeTime i.upDown

/-- The MUX row that the Step pseudocode picks. -/
def muxRow (p : Params) (r : Regs) : Instr :=
  match r.disp.ph with
  | .write => .muxWrite (decide (r.disp.cnt = p.settle - 1)) (decide (r.disp.pos = 3))
  | .hold =>
    if r.disp.cnt = p.settle - 1 then .muxHoldEnd (decide (r.disp.pos = 3))
    else .muxHoldStay (decide (r.disp.pos = 3))
  | .off =>
    if r.disp.pos = 3 then .muxOffWrap (decide (r.disp.cnt = p.settle - 1))
    else .muxOffNext (decide (r.disp.cnt = p.settle - 1))
  | .reserved => .muxReserved (decide (r.disp.cnt = p.settle - 1)) (decide (r.disp.pos = 3))

/-- EDGE is a change of either level (41_mode.md R89). -/
theorem edgeNow_iff {r : Regs} {i : Input} :
    edgeNow r i = true ↔ i.changeTime ≠ r.mode.pct ∨ i.upDown ≠ r.mode.pud := by
  simp [edgeNow, modeEdge]

/-- Each value of the bits TICK, ACCLAST and DIR is one row's word (30_encoding.md R57, R60). -/
theorem decodeWord_ctrWord (p : Params) (r : Regs) {i : Input} (h : i.rst = false) :
    decodeWord .ctr (ctrWord p r i) = .ok (ctrRow p r i) := by
  unfold ctrWord ctrRow accLast
  rw [h]
  cases i.tick <;> by_cases hacc : r.ctr.acc = p.nTicks - 1 <;> cases r.mode.mode.dir <;> simp only [hacc] <;> rfl

/-- Each value of the levels, now and in the cycle before, is one row's word (30_encoding.md R58, R60). -/
theorem decodeWord_modeWord (r : Regs) {i : Input} (h : i.rst = false) :
    decodeWord .mode (modeWord r i) = .ok (modeRow r i) := by
  unfold modeWord modeRow edgeNow modeEdge
  rw [h]
  cases i.changeTime <;> cases i.upDown <;> cases r.mode.pct <;> cases r.mode.pud <;> rfl

/-- Each value of PH, LAST and WRAP is one row's word (30_encoding.md R59, R60). -/
theorem decodeWord_muxWord (p : Params) (r : Regs) {i : Input} (h : i.rst = false) :
    decodeWord .mux (muxWord p r i) = .ok (muxRow p r) := by
  unfold muxWord muxRow cntLast posWrap
  rw [h]
  cases r.disp.ph <;> by_cases hcnt : r.disp.cnt = p.settle - 1 <;> by_cases hpos : r.disp.pos = 3 <;>
    simp only [hcnt, hpos] <;> rfl

/-- With RST = 0 the words select the rows of the Step pseudocode's branches (43_cycle.md R116). -/
theorem selectRows_of_not_rst (p : Params) (r : Regs) {i : Input} (h : i.rst = false) :
    selectRows p r i = .ok ⟨ctrRow p r i, modeRow r i, muxRow p r⟩ := by
  simp only [selectRows, decodeWord_ctrWord p r h, decodeWord_modeWord r h, decodeWord_muxWord p r h]
  rfl

/-! ### What the rows write -/

/-- The outcome of a write that is computed from the registers: the state it gives, or its fault. -/
def writeBack {α : Type} (w : Except Fault α) (put : α → State) : Result :=
  match w with
  | .ok a => .next (put a)
  | .error f => .fault f

@[simp] theorem writeBack_ok {α : Type} (a : α) (put : α → State) : writeBack (.ok a) put = .next (put a) := rfl
@[simp] theorem writeBack_error {α : Type} (f : Fault) (put : α → State) :
    writeBack (.error f) put = .fault f := rfl

theorem writeBack_eq_next {α : Type} {w : Except Fault α} {put : α → State} {t : State} :
    writeBack w put = .next t ↔ ∃ a, w = .ok a ∧ put a = t := by
  cases w <;> simp

/-- The counter registers after the cycle (40_counter.md R69 to R72). -/
def counterNext (p : Params) (r : Regs) (i : Input) : Except Fault CounterRegs :=
  if i.tick = true then
    if r.ctr.acc = p.nTicks - 1 then
      (adjust r.ctr.time (stepSign r.mode.mode.dir)).map fun t => { time := t, acc := 0 }
    else .ok { r.ctr with acc := r.ctr.acc + 1 }
  else .ok r.ctr

/-- The mode registers after the cycle (41_mode.md R88, R90, R91). -/
def modeNext (r : Regs) (i : Input) : ModeRegs where
  mode := if edgeNow r i then decisionRow i.changeTime i.upDown else r.mode.mode
  pct := i.changeTime
  pud := i.upDown

/-- The display registers after the cycle (42_display.md R102 to R107). -/
def displayNext (p : Params) (r : Regs) : Except Fault DisplayRegs :=
  match r.disp.ph with
  | .write => .ok { r.disp with ph := .hold, cnt := 0 }
  | .hold =>
    if r.disp.cnt = p.settle - 1 then .ok { r.disp with ph := .off, cnt := 0 }
    else .ok { r.disp with cnt := r.disp.cnt + 1 }
  | .off =>
    if r.disp.pos = 3 then
      .ok { pos := 0, ph := .write, cnt := 0, snap := resolve p.posMap r.mode.mode.page r.ctr.time }
    else .ok { r.disp with pos := r.disp.pos + 1, ph := .write, cnt := 0 }
  | .reserved => .error .reservedPhase

/-- The registers after a cycle with RST = 0, the display row's fault first (43_cycle.md R112, R114). -/
def regsNext (p : Params) (r : Regs) (i : Input) : Except Fault Regs := do
  let d ← displayNext p r
  let c ← counterNext p r i
  return { ctr := c, mode := modeNext r i, disp := d }

theorem regsNext_eq_ok {p : Params} {r q : Regs} {i : Input} :
    regsNext p r i = .ok q ↔
      ∃ c d, counterNext p r i = .ok c ∧ displayNext p r = .ok d ∧
        q = { ctr := c, mode := modeNext r i, disp := d } := by
  unfold regsNext
  cases displayNext p r <;> cases counterNext p r i <;>
    simp [Bind.bind, Except.bind, Pure.pure, Except.pure, eq_comm]

theorem applyAdjust_eq_writeBack (s : State) (r : Regs) (step : Int) :
    applyAdjust s r step =
      writeBack ((adjust r.ctr.time step).map fun t => { time := t, acc := 0 }) (s.putCounter r) := by
  unfold applyAdjust
  cases adjust r.ctr.time step <;> rfl

section
variable {s : State} {r : Regs} (h : Ready s r)
include h

theorem exec_ctrRow (i : Input) :
    exec (ctrRow s.params r i) s = writeBack (counterNext s.params r i) (s.putCounter r) := by
  unfold ctrRow counterNext
  split
  · split
    · rw [← applyAdjust_eq_writeBack]
      cases r.mode.mode.dir with
      | increment => exact checked_ready h _
      | decrement => exact checked_ready h _
    · exact checked_ready h _
  · refine (checked_ready h _).trans ?_
    obtain ⟨-, hr, -⟩ := h
    rw [writeBack_ok, State.putCounter, ← hr]

theorem exec_modeRow (i : Input) : exec (modeRow r i) s = .next (s.putMode r (modeNext r i)) := by
  unfold modeRow modeNext
  simp only [← edgeNow_iff]
  split
  · cases i.changeTime <;> cases i.upDown <;> exact checked_ready h _
  · exact checked_ready h _

theorem exec_muxRow : exec (muxRow s.params r) s = writeBack (displayNext s.params r) (s.putDisplay r) := by
  unfold muxRow displayNext
  cases r.disp.ph with
  | write => exact checked_ready h _
  | hold => dsimp only; split <;> exact checked_ready h _
  | off => dsimp only; split <;> exact checked_ready h _
  | reserved => exact checked_ready h _

/-- A cycle with RST = 0 from a ready state, in full (43_cycle.md R114). -/
theorem step_of_ready (hrst : isReset s = false) :
    step s = writeBack (regsNext s.params r (currentInput s)) fun q => advance { s with regs := some q } := by
  rw [step, clockCycle, cycleEffect_of_not_rst hrst, checked_ready h, runSelected, selectRows_of_not_rst _ _ hrst]
  dsimp only
  rw [runRows, exec_muxRow h, exec_ctrRow h, exec_modeRow h, regsNext]
  cases displayNext s.params r <;> cases counterNext s.params r (currentInput s) <;> rfl

end

/-- A reset cycle loads the reset values (70_reset_and_hazards.md R139). -/
theorem step_of_reset {s : State} (hw : s.params.wellFormed = true) (hrst : isReset s = true) :
    step s = .next (advance { s with regs := some (resetRegs s.params (currentInput s)) }) := by
  rw [step, clockCycle, cycleEffect_of_rst hrst]
  change andThen (execReset s) _ = _
  simp [execReset, configured, hw]

/-- All that a step which answers next can do: load the reset values, or the next registers of a ready state. -/
theorem step_next_cases {s t : State} (h : step s = .next t) :
    s.params.wellFormed = true ∧ ∃ q, t = advance { s with regs := some q } ∧
      (q = resetRegs s.params (currentInput s) ∨
        ∃ r, Ready s r ∧ regsNext s.params r (currentInput s) = .ok q) := by
  have hw : s.params.wellFormed = true := by
    by_contra hill
    simp [step_eq_refused.mpr ⟨eq_false_of_ne_true hill, rfl⟩] at h
  refine ⟨hw, ?_⟩
  cases hrst : isReset s with
  | true =>
    rw [step_of_reset hw hrst] at h
    cases h
    exact ⟨_, rfl, .inl rfl⟩
  | false =>
    obtain ⟨u, heffect, -⟩ := step_eq_next.mp h
    rw [cycleEffect_of_not_rst hrst] at heffect
    obtain ⟨r, hready, -⟩ := checked_eq_next.mp heffect
    rw [step_of_ready hready hrst] at h
    obtain ⟨q, hq, rfl⟩ := writeBack_eq_next.mp h
    exact ⟨q, rfl, .inr ⟨r, hready, hq⟩⟩

end Sys2Proof.Proofs
end

section
/-! Invariants of the registers: an induction over runs, and the two invariants of 10_state.md R18, R24, R27 and
20_memory.md R43, each kept by the reset values and by the next registers. -/

namespace Sys2Proof.Proofs

open Sys2Proof.Machine Sys2Proof.Safety Sys2Proof.Laws

/-! ### Invariants along runs -/

/-- A property of the registers that a reset establishes and every cycle keeps, under a well-formed configuration. -/
structure RegsInvariant (P : Params → Regs → Prop) : Prop where
  reset : ∀ (p : Params) (i : Input), p.wellFormed = true → P p (resetRegs p i)
  next : ∀ (p : Params) (r q : Regs) (i : Input), p.wellFormed = true → P p r → regsNext p r i = .ok q → P p q

/-- The property in a state: it holds of the registers, if there are any. -/
def HoldsIn (P : Params → Regs → Prop) (s : State) : Prop :=
  ∀ r, s.regs = some r → P s.params r

section
variable {P : Params → Regs → Prop} (hP : RegsInvariant P)
include hP

theorem step_keeps_regsInvariant {s t : State} (hs : HoldsIn P s) (h : step s = .next t) : HoldsIn P t := by
  obtain ⟨hw, q, rfl, hq⟩ := step_next_cases h
  rintro _ ⟨⟩
  obtain rfl | ⟨r, ⟨-, hr, -⟩, hnext⟩ := hq
  · exact hP.reset _ _ hw
  · exact hP.next _ r q _ hw (hs r hr) hnext

theorem run_keeps_regsInvariant {k : Nat} {s t : State} (hs : HoldsIn P s) (h : run k s = .next t) : HoldsIn P t := by
  induction k generalizing s with
  | zero =>
    cases h
    exact hs
  | succ k ih =>
    obtain ⟨u, hstep, hrun⟩ := andThen_eq_next.mp h
    exact ih (step_keeps_regsInvariant hP hs hstep) hrun

/-- Every reachable state has the property: a run starts without registers (10_state.md R34). -/
theorem reachable_regsInvariant {s : State} (h : Reachable s) : HoldsIn P s := by
  obtain ⟨p, ins, k, -, hrun⟩ := h
  exact run_keeps_regsInvariant hP (by rintro r ⟨⟩) hrun

end

theorem step_params {s t : State} (h : step s = .next t) : t.params = s.params := by
  obtain ⟨-, q, rfl, -⟩ := step_next_cases h
  rfl

theorem run_params {k : Nat} {s t : State} (h : run k s = .next t) : t.params = s.params := by
  induction k generalizing s with
  | zero =>
    cases h
    rfl
  | succ k ih =>
    obtain ⟨u, hstep, hrun⟩ := andThen_eq_next.mp h
    exact (ih hrun).trans (step_params hstep)

theorem reachable_wellFormed {s : State} (h : Reachable s) : s.params.wellFormed = true := by
  obtain ⟨p, ins, k, hw, hrun⟩ := h
  rw [run_params hrun]
  exact hw

/-! ### Valid times -/

theorem time_valid_iff {t : Time} :
    t.valid = true ↔ t.hu.toNat ≤ 9 ∧ t.mu.toNat ≤ 9 ∧ t.su.toNat ≤ 9 ∧ t.mt.toNat ≤ 5 ∧ t.st.toNat ≤ 5 ∧
      t.ht.toNat ≤ 2 ∧ (t.ht.toNat = 2 → t.hu.toNat ≤ 3) := by
  rw [Time.valid, decide_eq_true_eq]

theorem digit_le_nine {t : Time} (h : t.valid = true) (n : DigitName) : (t.digit n).toNat ≤ 9 := by
  obtain ⟨hhu, hmu, hsu, hmt, hst, hht, -⟩ := time_valid_iff.mp h
  cases n <;> simp only [Time.digit] <;> omega

theorem resolve_get (m : PosMap) (page : Page) (t : Time) (pos : Fin 4) :
    (resolve m page t).get pos = t.digit ((m.row page).get pos) := by
  fin_cases pos <;> rfl

theorem resolve_get_le_nine {t : Time} (h : t.valid = true) (m : PosMap) (page : Page) (pos : Fin 4) :
    ((resolve m page t).get pos).toNat ≤ 9 := by
  rw [resolve_get]
  exact digit_le_nine h _

/-- The units rule on a digit 0 to 9 and one carry or borrow leaves such a digit and passes on at most one. -/
theorem unitsRule_digit {d : Digit} {c : Int} (hd : d.toNat ≤ 9) (hc : -1 ≤ c ∧ c ≤ 1) :
    (digitOf (unitsRule (d.toNat + c)).1).toNat ≤ 9 ∧
      -1 ≤ (unitsRule (d.toNat + c)).2 ∧ (unitsRule (d.toNat + c)).2 ≤ 1 := by
  obtain ⟨h0, h9, -, hcl, hcu, -, -⟩ := unitsRule_spec (v := d.toNat + c) (by omega) (by omega)
  have hdigit := digitOf_toNat h0 (by omega)
  omega

/-- The same for the tens rule and a digit 0 to 5. -/
theorem tensRule_digit {d : Digit} {c : Int} (hd : d.toNat ≤ 5) (hc : -1 ≤ c ∧ c ≤ 1) :
    (digitOf (tensRule (d.toNat + c)).1).toNat ≤ 5 ∧
      -1 ≤ (tensRule (d.toNat + c)).2 ∧ (tensRule (d.toNat + c)).2 ≤ 1 := by
  obtain ⟨h0, h5, -, hcl, hcu, -, -⟩ := tensRule_spec (v := d.toNat + c) (by omega) (by omega)
  have hdigit := digitOf_toNat h0 (by omega)
  omega

/-- The hours rule on a valid hours pair and one carry or borrow leaves such a pair, where it keeps HT above -1. -/
theorem hoursRule_digits {ht hu : Digit} {c : Int} (hht : ht.toNat ≤ 2) (hhu : hu.toNat ≤ 9)
    (h23 : ht.toNat = 2 → hu.toNat ≤ 3) (hc : -1 ≤ c ∧ c ≤ 1) (hnonneg : ¬ (hoursRule ht.toNat (hu.toNat + c)).1 < 0) :
    (digitOf (hoursRule ht.toNat (hu.toNat + c)).1).toNat ≤ 2 ∧
      (digitOf (hoursRule ht.toNat (hu.toNat + c)).2).toNat ≤ 9 ∧
      ((digitOf (hoursRule ht.toNat (hu.toNat + c)).1).toNat = 2 →
        (digitOf (hoursRule ht.toNat (hu.toNat + c)).2).toNat ≤ 3) := by
  obtain ⟨hht2, hhu0, hhu9, hhu3, -⟩ :=
    hoursRule_spec (ht := ht.toNat) (hu := hu.toNat) (c := c) (by omega) (by omega) (by omega) (by omega) (by omega)
      hc.1 hc.2
  have htens := digitOf_toNat (not_lt.mp hnonneg) (by omega)
  have hunits := digitOf_toNat hhu0 (by omega)
  omega

/-- Adjust of a valid time by one step: the bounds pass up the chain of digit rules, SU to HT (40_counter.md R84). -/
theorem adjust_valid {t t' : Time} {step : Int} (hstep : step = 1 ∨ step = -1) (h : t.valid = true)
    (hadjust : adjust t step = .ok t') : t'.valid = true := by
  obtain ⟨hhu, hmu, hsu, hmt, hst, hht, h23⟩ := time_valid_iff.mp h
  unfold adjust at hadjust
  split at hadjust
  · cases hadjust
    rfl
  · dsimp only at hadjust
    split at hadjust
    · cases hadjust
    next hnonneg =>
      obtain ⟨hsu', hsuCarry⟩ := unitsRule_digit hsu (c := step) (by omega)
      obtain ⟨hst', hstCarry⟩ := tensRule_digit hst hsuCarry
      obtain ⟨hmu', hmuCarry⟩ := unitsRule_digit hmu hstCarry
      obtain ⟨hmt', hmtCarry⟩ := tensRule_digit hmt hmuCarry
      obtain ⟨hht', hhu', h23'⟩ := hoursRule_digits hht hhu h23 hmtCarry hnonneg
      cases hadjust
      exact time_valid_iff.mpr ⟨hhu', hmu', hsu', hmt', hst', hht', h23'⟩

theorem stepSign_eq (d : Direction) : stepSign d = 1 ∨ stepSign d = -1 := by
  cases d <;> simp [stepSign]

/-! ### Safe registers -/

/-- The condition on IND and DIR of `RegsSafe` holds in every row of the decision table (41_mode.md R87). -/
theorem decisionRow_ind_iff (ct ud : Bool) :
    (decisionRow ct ud).ind = true ↔ (decisionRow ct ud).dir = .increment := by
  cases ud <;> simp [decisionRow, dirOfLevel]

theorem counterNext_inRange {p : Params} {r : Regs} {i : Input} {c : CounterRegs} (hvalid : r.ctr.time.valid = true)
    (hacc : r.ctr.acc < p.nTicks) (h : counterNext p r i = .ok c) : c.time.valid = true ∧ c.acc < p.nTicks := by
  unfold counterNext at h
  split at h
  · split at h
    · cases hadjust : adjust r.ctr.time (stepSign r.mode.mode.dir) with
      | error f => simp [hadjust, Except.map] at h
      | ok t =>
        simp only [hadjust, Except.map] at h
        cases h
        exact ⟨adjust_valid (stepSign_eq _) hvalid hadjust, Nat.zero_lt_of_lt hacc⟩
    next hlast =>
      cases h
      exact ⟨hvalid, by dsimp only; omega⟩
  · cases h
    exact ⟨hvalid, hacc⟩

theorem modeNext_ind_iff {r : Regs} (i : Input) (h : r.mode.mode.ind = true ↔ r.mode.mode.dir = .increment) :
    (modeNext r i).mode.ind = true ↔ (modeNext r i).mode.dir = .increment := by
  unfold modeNext
  dsimp only
  split
  · exact decisionRow_ind_iff _ _
  · exact h

/-- The snapshot after the cycle: kept, or loaded from the page and the digits of the cycle (42_display.md R106). -/
theorem displayNext_snap {p : Params} {r : Regs} {d : DisplayRegs} (h : displayNext p r = .ok d) :
    d.snap = r.disp.snap ∨ d.snap = resolve p.posMap r.mode.mode.page r.ctr.time := by
  unfold displayNext at h
  split at h
  · cases h; exact .inl rfl
  · split at h <;> cases h <;> exact .inl rfl
  · split at h
    · cases h; exact .inr rfl
    · cases h; exact .inl rfl
  · cases h

/-- The sequencer after the cycle: CNT in range, no reserved phase, and CNT 0 outside HOLD (10_state.md R27). -/
theorem displayNext_sequencer {p : Params} {r : Regs} {d : DisplayRegs} (hcnt : r.disp.cnt < p.settle)
    (h : displayNext p r = .ok d) : d.cnt < p.settle ∧ d.ph ≠ .reserved ∧ (d.ph ≠ .hold → d.cnt = 0) := by
  have hsettle : 0 < p.settle := Nat.zero_lt_of_lt hcnt
  unfold displayNext at h
  split at h
  · cases h; simp [hsettle]
  next hph =>
    split at h
    · cases h; simp [hsettle]
    next hlast =>
      cases h
      exact ⟨by dsimp only; omega, by simp [hph], fun hne => absurd hph hne⟩
  · split at h <;> cases h <;> simp [hsettle]
  · cases h

theorem regsSafe_regsInvariant : RegsInvariant RegsSafe where
  reset p i hw := by
    have hseed := wellFormed_seed hw
    obtain ⟨ct, ud, hmode⟩ := wellFormed_resetMode hw
    refine ⟨hseed, wellFormed_nTicks hw, wellFormed_settle hw, resolve_get_le_nine hseed _ _, by simp, ?_, by simp⟩
    rw [resetRegs_mode, hmode]
    exact decisionRow_ind_iff ct ud
  next p r q i _ hr hq := by
    obtain ⟨hvalid, hacc, hcnt, hsnap, -, hind, -⟩ := hr
    obtain ⟨c, d, hc, hd, rfl⟩ := regsNext_eq_ok.mp hq
    obtain ⟨hvalid', hacc'⟩ := counterNext_inRange hvalid hacc hc
    obtain ⟨hcnt', hph', hzero'⟩ := displayNext_sequencer hcnt hd
    refine ⟨hvalid', hacc', hcnt', fun pos => ?_, hph', modeNext_ind_iff i hind, hzero'⟩
    dsimp only
    obtain hkept | hloaded := displayNext_snap hd
    · rw [hkept]
      exact hsnap pos
    · rw [hloaded]
      exact resolve_get_le_nine hvalid _ _ pos

/-! ### Consistent snapshots -/

/-- The snapshot holds digits of one valid time, as one page shows them: `SnapConsistent` on the registers. -/
def SnapOfOneTime (p : Params) (r : Regs) : Prop :=
  ∃ (page : Page) (t : Time), t.valid = true ∧ r.disp.snap = resolve p.posMap page t

theorem snapConsistent_iff {s : State} : SnapConsistent s ↔ HoldsIn SnapOfOneTime s := Iff.rfl

theorem stateSafe_iff {s : State} : StateSafe s ↔ s.params.wellFormed = true ∧ HoldsIn RegsSafe s := Iff.rfl

/-- A snapshot that is loaded in a cycle is of that cycle's digits, whose validity the safety invariant gives. -/
theorem snapOfOneTime_regsInvariant : RegsInvariant fun p r => RegsSafe p r ∧ SnapOfOneTime p r where
  reset p i hw := ⟨regsSafe_regsInvariant.reset p i hw, p.resetMode.page, p.seed, wellFormed_seed hw, rfl⟩
  next p r q i hw hr hq := by
    obtain ⟨hsafe, page, t, ht, hsnap⟩ := hr
    refine ⟨regsSafe_regsInvariant.next p r q i hw hsafe hq, ?_⟩
    obtain ⟨c, d, -, hd, rfl⟩ := regsNext_eq_ok.mp hq
    obtain hkept | hloaded := displayNext_snap hd
    · exact ⟨page, t, ht, hkept.trans hsnap⟩
    · exact ⟨r.mode.mode.page, r.ctr.time, hsafe.1, hloaded⟩

/-! ### Faults before a row -/

theorem checkLegal_of_invalid_time {p : Params} {r : Regs} (h : r.ctr.time.valid = false) :
    checkLegal p r = some .digitOutOfRange := by
  simp [checkLegal, h]

/-- A fault of the checks before a cycle's rows is the fault of the step. -/
theorem step_eq_fault_of_checked {s : State} {f : Fault} (hrst : isReset s = false)
    (h : checked s (runSelected s) = .fault f) : step s = .fault f := by
  rw [step, clockCycle, cycleEffect_of_not_rst hrst, h, andThen_fault]

/-- Settles O55: the invariants `RegsSafe` and `SnapOfOneTime` hold along every run, and an invalid time fails
CheckLegal. -/
theorem reachableStatesAreSafe : Obligations.ReachableStatesAreSafe := by
  refine ⟨fun s hs => ?_, fun s r hw hr hvalid hrst => ?_⟩
  · have hinv := reachable_regsInvariant snapOfOneTime_regsInvariant hs
    exact ⟨stateSafe_iff.mpr ⟨reachable_wellFormed hs, fun r hr => (hinv r hr).1⟩,
      snapConsistent_iff.mpr fun r hr => (hinv r hr).2⟩
  · exact step_eq_fault_of_checked hrst (checked_illegal hw hr (checkLegal_of_invalid_time hvalid) _)

end Sys2Proof.Proofs
end

section
/-! Reads before the first reset (10_state.md R34), and the outputs as functions of the registers (R32, R33). -/

namespace Sys2Proof.Proofs

open Sys2Proof.Machine Sys2Proof.Safety Sys2Proof.Laws

theorem exec_noValue {s : State} {i : Instr} (hi : i ≠ .reset) (hw : s.params.wellFormed = true)
    (hr : s.regs = none) : exec i s = .fault .readBeforeReset := by
  obtain ⟨k, hexec, -⟩ := exec_eq_checked hi s
  rw [hexec, checked_noValue hw hr]

theorem outputs_noValue {s : State} (hr : s.regs = none) : outputs s = .error .readBeforeReset := by
  simp [outputs, hr]

theorem outputs_of_regs {s : State} {r : Regs} (hr : s.regs = some r) : outputs s = .ok (outputsOf r) := by
  simp [outputs, hr]

/-- Settles O58: each of the three reads goes through the check for NOVALUE. -/
theorem readsBeforeResetFault : Obligations.ReadsBeforeResetFault := by
  refine ⟨powerOn_regs, fun s i hw hr => ⟨fun hi => exec_noValue hi hw hr, fun hrst => ?_, outputs_noValue hr⟩⟩
  exact step_eq_fault_of_checked hrst (checked_noValue hw hr _)

/-- Settles O41: `outputs` reads the registers of the state and no other field. -/
theorem outputsAreAFunctionOfTheRegisters : Obligations.OutputsAreAFunctionOfTheRegisters := by
  refine ⟨fun s r hr => outputs_of_regs hr, fun s s' h => ?_⟩
  unfold outputs
  rw [h]

end Sys2Proof.Proofs
end

section
/-! The decode words and the input vector as bits (30_encoding.md R56 to R59, R65), and the rows of the operation map
that a word selects: no two rows of a format share a word, and all but RESET ask for RST = 0 (R61). -/

namespace Sys2Proof.Proofs

open Sys2Proof.Machine Sys2Proof.Safety Sys2Proof.Laws

/-! ### Words as bits -/

/-- A four-bit word with its bits in weights, as CTR, MODE and IN are put together, bit 0 first. -/
theorem ofBits_four (b0 b1 b2 b3 : Bool) :
    Nat.ofBits ![b0, b1, b2, b3] = 8 * b3.toNat + 4 * b2.toNat + 2 * b1.toNat + b0.toNat := by
  change 2 * (2 * (2 * (2 * 0 + b3.toNat) + b2.toNat) + b1.toNat) + b0.toNat = _
  omega

theorem direction_code_toNat (d : Direction) : d.code.toNat = (decide (d = .increment)).toNat := by
  cases d <;> rfl

theorem input_vec_eq_ofBits (i : Input) : i.vec = Nat.ofBits ![i.upDown, i.changeTime, i.tick, i.rst] :=
  (ofBits_four ..).symm

theorem ctrWord_eq_ofBits (p : Params) (r : Regs) (i : Input) :
    ctrWord p r i = Nat.ofBits ![decide (r.mode.mode.dir = .increment), accLast p r, i.tick, i.rst] := by
  rw [ofBits_four, ctrWord, direction_code_toNat]

theorem modeWord_eq_ofBits (r : Regs) (i : Input) :
    modeWord r i = Nat.ofBits ![i.upDown, i.changeTime, edgeNow r i, i.rst] :=
  (ofBits_four ..).symm

/-- PH, the two low bits, is a number below 4 under the three bits RST, LAST and WRAP. -/
theorem muxWord_eq_ofBits (p : Params) (r : Regs) (i : Input) :
    muxWord p r i = 2 ^ 2 * Nat.ofBits ![posWrap r, cntLast p r, i.rst] + r.disp.ph.code.toNat := by
  change _ = 4 * (2 * (2 * (2 * 0 + i.rst.toNat) + (cntLast p r).toNat) + (posWrap r).toNat) + r.disp.ph.code.toNat
  rw [muxWord]
  omega

/-! ### The fields of the words -/

theorem rstwWord_fields (i : Input) : rstwWord i < 2 ∧ (rstwWord i).testBit 0 = i.rst :=
  ⟨i.rst.toNat_lt, by cases h : i.rst <;> simp [rstwWord, h]⟩

theorem input_vec_fields (i : Input) :
    i.vec < 16 ∧ i.vec.testBit 3 = i.rst ∧ i.vec.testBit 2 = i.tick ∧ i.vec.testBit 1 = i.changeTime ∧
      i.vec.testBit 0 = i.upDown := by
  rw [input_vec_eq_ofBits]
  exact ⟨Nat.ofBits_lt_two_pow _, by simp [-Nat.testBit_zero]⟩

theorem ctrWord_fields (p : Params) (r : Regs) (i : Input) :
    ctrWord p r i < 16 ∧ (ctrWord p r i).testBit 3 = i.rst ∧ (ctrWord p r i).testBit 2 = i.tick ∧
      ((ctrWord p r i).testBit 1 = true ↔ r.ctr.acc = p.nTicks - 1) ∧
      ((ctrWord p r i).testBit 0 = true ↔ r.mode.mode.dir = .increment) := by
  rw [ctrWord_eq_ofBits]
  exact ⟨Nat.ofBits_lt_two_pow _, by simp [-Nat.testBit_zero, accLast]⟩

theorem modeWord_fields (r : Regs) (i : Input) :
    modeWord r i < 16 ∧ (modeWord r i).testBit 3 = i.rst ∧
      ((modeWord r i).testBit 2 = true ↔ i.changeTime ≠ r.mode.pct ∨ i.upDown ≠ r.mode.pud) ∧
      (modeWord r i).testBit 1 = i.changeTime ∧ (modeWord r i).testBit 0 = i.upDown := by
  rw [modeWord_eq_ofBits, ← edgeNow_iff]
  exact ⟨Nat.ofBits_lt_two_pow _, by simp [-Nat.testBit_zero]⟩

theorem muxWord_fields (p : Params) (r : Regs) (i : Input) :
    muxWord p r i < 32 ∧ (muxWord p r i).testBit 4 = i.rst ∧
      ((muxWord p r i).testBit 3 = true ↔ r.disp.cnt = p.settle - 1) ∧
      ((muxWord p r i).testBit 2 = true ↔ r.disp.pos = 3) ∧ muxWord p r i % 4 = r.disp.ph.code.toNat := by
  have hph : r.disp.ph.code.toNat < 2 ^ 2 := r.disp.ph.code.isLt
  have hhigh := Nat.ofBits_lt_two_pow ![posWrap r, cntLast p r, i.rst]
  rw [muxWord_eq_ofBits]
  refine ⟨by omega, ?_, ?_, ?_, by omega⟩ <;>
    simp [-Nat.testBit_zero, Nat.testBit_two_pow_mul_add _ hph, cntLast, posWrap]

/-- Settles O4: the fields of the four words, and the RSTW table's only row, RESET. -/
theorem decodeWordsHoldTheirFields : Obligations.DecodeWordsHoldTheirFields := by
  intro p r i
  obtain ⟨hwidth, hrst⟩ := rstwWord_fields i
  exact ⟨⟨hwidth, hrst, rfl, fun j => by rintro ⟨⟩⟩, ctrWord_fields p r i, modeWord_fields r i, muxWord_fields p r i⟩

theorem input_ofVec_vec (i : Input) : Input.ofVec i.vec = i := by
  obtain ⟨-, hrst, htick, hct, hud⟩ := input_vec_fields i
  rw [Input.ofVec, hrst, htick, hct, hud]

/-- Settles O6: the bits of IN, from which the input vector is read back. -/
theorem inputVectorsRoundTrip : Obligations.InputVectorsRoundTrip := by
  refine ⟨fun i => ?_, fun i => ?_, rfl, rfl⟩
  · exact ⟨(input_vec_fields i).1, input_ofVec_vec i⟩
  · exact (input_vec_fields i).2

/-! ### The rows that a word selects -/

theorem row_selects_iff {row : Row} {f : Format} {w : Nat} :
    row.selects f w = true ↔ row.format = f ∧ w &&& row.mask = row.pattern := by
  simp [Row.selects]

/-- The rows of the operation map that a word selects. -/
def selectedRows (f : Format) (w : Nat) : List Row :=
  operationMap.filter fun row => row.selects f w

theorem mem_selectedRows {f : Format} {w : Nat} {row : Row} :
    row ∈ selectedRows f w ↔ row ∈ operationMap ∧ row.selects f w = true :=
  List.mem_filter

/-- Rows of different formats, or rows that ask for different values of a bit that both of their masks hold. -/
def RowsDisjoint (a b : Row) : Prop :=
  a.format = b.format → a.pattern &&& b.mask ≠ b.pattern &&& a.mask

/-- Disjoint rows share no word: the bits of a word under both masks are those of either match. -/
theorem not_selects_of_disjoint {a b : Row} {f : Format} {w : Nat} (hab : RowsDisjoint a b)
    (ha : a.selects f w = true) : ¬ b.selects f w = true := by
  intro hb
  obtain ⟨haf, haw⟩ := row_selects_iff.mp ha
  obtain ⟨hbf, hbw⟩ := row_selects_iff.mp hb
  refine hab (haf.trans hbf.symm) ?_
  rw [← haw, ← hbw, Nat.and_right_comm]

theorem operationMap_pairwise_disjoint : operationMap.Pairwise RowsDisjoint := by
  unfold RowsDisjoint
  decide

/-- A word selects at most one row of the operation map, whatever its format. -/
theorem selectedRows_length_le_one (f : Format) (w : Nat) : (selectedRows f w).length ≤ 1 := by
  have hpair : (selectedRows f w).Pairwise RowsDisjoint := operationMap_pairwise_disjoint.filter _
  have hsel : ∀ row ∈ selectedRows f w, row.selects f w = true := fun row hrow => (mem_selectedRows.mp hrow).2
  generalize selectedRows f w = rows at hpair hsel
  match rows with
  | [] => exact Nat.zero_le 1
  | [_] => exact le_rfl
  | a :: b :: _ =>
    have hab : RowsDisjoint a b := List.rel_of_pairwise_cons hpair List.mem_cons_self
    exact absurd (hsel b (by simp)) (not_selects_of_disjoint hab (hsel a List.mem_cons_self))

/-- A word that decodes selects some row. -/
theorem selectedRows_ne_nil_of_decodeWord {f : Format} {w : Nat} {i : Instr} (h : decodeWord f w = .ok i) :
    selectedRows f w ≠ [] := by
  unfold decodeWord at h
  split at h
  · split at h
    next row hfind =>
      have hsel := List.find?_some hfind
      exact List.ne_nil_of_mem (mem_selectedRows.mpr ⟨List.mem_of_find?_eq_some hfind, hsel⟩)
    · cases h
  · cases h

/-- With RST = 0 exactly one row: one that the word decodes to, and no second (30_encoding.md R61). -/
theorem selectedRows_length_of_top_bit_clear {f : Format} {w : Nat} (hf : f ≠ .rstw) (hw : w < 2 ^ (f.width - 1)) :
    (selectedRows f w).length = 1 := by
  obtain ⟨i, hi⟩ := decodeWord_isOk_of_top_bit_clear hf hw
  exact le_antisymm (selectedRows_length_le_one f w)
    (List.length_pos_iff.mpr (selectedRows_ne_nil_of_decodeWord hi))

/-- Every row but RESET asks for RST = 0: its mask holds the top bit of its format, and its match has it 0. -/
theorem operationMap_top_bit : ∀ row ∈ operationMap, row.format ≠ .rstw →
    row.mask.testBit (row.format.width - 1) = true ∧ row.pattern.testBit (row.format.width - 1) = false := by
  decide

/-- With RST = 1 no row of the three families (30_encoding.md R61). -/
theorem selectedRows_eq_nil_of_top_bit_set {f : Format} {w : Nat} (hf : f ≠ .rstw)
    (htop : w.testBit (f.width - 1) = true) : selectedRows f w = [] := by
  refine List.filter_eq_nil_iff.mpr fun row hrow hsel => ?_
  obtain ⟨rfl, hw⟩ := row_selects_iff.mp hsel
  obtain ⟨hmask, hpattern⟩ := operationMap_top_bit row hrow hf
  simp [← hw, Nat.testBit_and, htop, hmask] at hpattern

/-- A word of n bits whose top bit is 0 fits one bit fewer. -/
theorem lt_of_top_bit_clear {n w : Nat} (hw : w < 2 ^ n) (htop : w.testBit (n - 1) = false) : w < 2 ^ (n - 1) := by
  refine Nat.lt_pow_two_of_testBit w fun k hk => ?_
  obtain rfl | hlt := Nat.eq_or_lt_of_le hk
  · exact htop
  · exact Nat.testBit_lt_two_pow (hw.trans_le (Nat.pow_le_pow_right two_pos (by omega)))

/-- Settles O2: the rows are disjoint and cover the words with RST = 0, none holds a word with RST = 1, and a reset
cycle runs the row RSTW selects. -/
theorem wordsSelectExactlyOneRow : Obligations.WordsSelectExactlyOneRow := by
  refine ⟨fun f w hf hw => ⟨fun htop => ?_, fun htop => ?_⟩, fun s hrst => cycleEffect_of_rst hrst⟩
  · exact selectedRows_length_of_top_bit_clear hf (lt_of_top_bit_clear hw htop)
  · exact List.length_eq_zero_iff.mpr (selectedRows_eq_nil_of_top_bit_set hf htop)

end Sys2Proof.Proofs
end

section
/-! The adjustment of a time value: it never faults, its saturation guard fires at 00:00:00 downwards, and everywhere
else the digit chain moves the seconds by the step, modulo one day (40_counter.md R74, R80 to R83). -/

namespace Sys2Proof.Proofs

open Sys2Proof.Machine Sys2Proof.Safety Sys2Proof.Laws

/-! ### The saturation guard -/

theorem digit_eq_zero_iff {d : Digit} : d = 0 ↔ d.toNat = 0 :=
  BitVec.toNat_eq

/-- The guard's condition as arithmetic on the digits. -/
theorem saturates_iff_toNat {t : Time} {step : Int} :
    saturates t step = true ↔
      t.ht.toNat = 0 ∧ t.hu.toNat = 0 ∧ t.mt.toNat = 0 ∧ t.mu.toNat = 0 ∧ t.st.toNat = 0 ∧
        (t.su.toNat : Int) + step < 0 := by
  simp only [saturates, decide_eq_true_eq, digit_eq_zero_iff]

/-- For a step of one, on any digits, the guard fires in one case: 00:00:00 with -1 (40_counter.md R82). -/
theorem saturates_iff {t : Time} {step : Int} (hstep : step = 1 ∨ step = -1) :
    saturates t step = true ↔ t = ⟨0, 0, 0, 0, 0, 0⟩ ∧ step = -1 := by
  obtain ⟨ht, hu, mt, mu, st, su⟩ := t
  simp only [saturates_iff_toNat, Time.mk.injEq, digit_eq_zero_iff]
  omega

theorem adjust_of_saturates {t : Time} {step : Int} (h : saturates t step = true) :
    adjust t step = .ok ⟨0, 0, 0, 0, 0, 0⟩ := by
  simp [adjust, h]

/-- The guard never fires upwards, whatever the digits (40_counter.md R82). -/
theorem saturates_inc (t : Time) : saturates t 1 = false := by
  have hup : ¬ saturates t 1 = true := fun h => absurd ((saturates_iff (.inl rfl)).mp h).2 (by decide)
  exact eq_false_of_ne_true hup

/-- Settles O14: the guard's one case is the time 00:00:00, which is also the value that it answers. -/
theorem saturationGuardHoldsMidnight : Obligations.SaturationGuardHoldsMidnight := by
  refine ⟨fun t step hstep hht hhu hmt hmu hst hlow => ?_, saturates_inc, fun t step _ hstep => saturates_iff hstep⟩
  have hguard : saturates t step = true := decide_eq_true ⟨hht, hhu, hmt, hmu, hst, hlow⟩
  obtain ⟨rfl, hdown⟩ := (saturates_iff hstep).mp hguard
  exact ⟨rfl, hdown, adjust_of_saturates hguard⟩

/-! ### The digit chain -/

/-- What passes from the minutes to the hours, up the chain SU, ST, MU, MT (40_counter.md R78). -/
def carryToHours (t : Time) (step : Int) : Int :=
  let su := unitsRule (t.su.toNat + step)
  let st := tensRule (t.st.toNat + su.2)
  let mu := unitsRule (t.mu.toNat + st.2)
  (tensRule (t.mt.toNat + mu.2)).2

/-- A borrow from the hours has passed every lower digit, each of them 0 (40_counter.md R83). -/
theorem digits_of_borrow_from_hours {t : Time} {step : Int} (h : carryToHours t step < 0) :
    carryToHours t step = -1 ∧ t.mt.toNat = 0 ∧ t.mu.toNat = 0 ∧ t.st.toNat = 0 ∧ (t.su.toNat : Int) + step < 0 := by
  simp only [carryToHours] at h ⊢
  have hsu := unitsRule_passes (t.su.toNat + step)
  generalize unitsRule (t.su.toNat + step) = su at *
  have hst := tensRule_passes (t.st.toNat + su.2)
  generalize tensRule (t.st.toNat + su.2) = st at *
  have hmu := unitsRule_passes (t.mu.toNat + st.2)
  generalize unitsRule (t.mu.toNat + st.2) = mu at *
  have hmt := tensRule_passes (t.mt.toNat + mu.2)
  omega

/-- Where the guard does not fire, the digit chain keeps HT at 0 or above (40_counter.md R83). -/
theorem hoursTens_nonneg {t : Time} {step : Int} (h : saturates t step = false) :
    0 ≤ (hoursRule t.ht.toNat (t.hu.toNat + carryToHours t step)).1 := by
  by_contra hneg
  obtain ⟨hht, hhu⟩ := hoursRule_neg (by omega) (not_le.mp hneg)
  obtain ⟨hborrow, hmt, hmu, hst, hsu⟩ := digits_of_borrow_from_hours (t := t) (step := step) (by omega)
  have hguard : saturates t step = true := saturates_iff_toNat.mpr (by omega)
  simp [h] at hguard

/-- The time that the digit rules give, one after another (40_counter.md R75 to R78). -/
def chainedTime (t : Time) (step : Int) : Time :=
  let su := unitsRule (t.su.toNat + step)
  let st := tensRule (t.st.toNat + su.2)
  let mu := unitsRule (t.mu.toNat + st.2)
  let mt := tensRule (t.mt.toNat + mu.2)
  let h := hoursRule t.ht.toNat (t.hu.toNat + mt.2)
  ⟨digitOf h.1, digitOf h.2, digitOf mt.1, digitOf mu.1, digitOf st.1, digitOf su.1⟩

theorem adjust_of_not_saturates {t : Time} {step : Int} (h : saturates t step = false) :
    adjust t step = .ok (chainedTime t step) := by
  have hguard : ¬ saturates t step = true := by simp [h]
  rw [adjust, if_neg hguard]
  exact if_neg (not_lt.mpr (hoursTens_nonneg h))

/-- Adjust answers a time for any digits and any step (40_counter.md R83). -/
theorem adjust_ok (t : Time) (step : Int) : ∃ t', adjust t step = .ok t' := by
  cases h : saturates t step with
  | true => exact ⟨_, adjust_of_saturates h⟩
  | false => exact ⟨_, adjust_of_not_saturates h⟩

theorem secs_lt_of_valid {t : Time} (h : t.valid = true) : t.secs < 86400 := by
  obtain ⟨hhu, hmu, hsu, hmt, hst, hht, h23⟩ := time_valid_iff.mp h
  unfold Time.secs
  omega

/-- Where the guard does not fire, the seconds move by the step, and one day is 0 (40_counter.md R75 to R78): each digit
rule accounts for its own weight, and what it passes on is the next digit's. -/
theorem chainedTime_secs {t : Time} {step : Int} (hstep : step = 1 ∨ step = -1) (hvalid : t.valid = true)
    (hguard : saturates t step = false) :
    ((chainedTime t step).secs : Int) = if (t.secs : Int) + step = 86400 then 0 else t.secs + step := by
  obtain ⟨hhu, hmu, hsu, hmt, hst, hht, h23⟩ := time_valid_iff.mp hvalid
  have hnonneg := hoursTens_nonneg hguard
  simp only [carryToHours] at hnonneg
  simp only [chainedTime, Time.secs]
  obtain ⟨hsu0, hsu9, hsuSum, hsul, hsuu, -, -⟩ := unitsRule_spec (v := t.su.toNat + step) (by omega) (by omega)
  generalize unitsRule (t.su.toNat + step) = su at *
  obtain ⟨hst0, hst5, hstSum, hstl, hstu, -, -⟩ := tensRule_spec (v := t.st.toNat + su.2) (by omega) (by omega)
  generalize tensRule (t.st.toNat + su.2) = st at *
  obtain ⟨hmu0, hmu9, hmuSum, hmul, hmuu, -, -⟩ := unitsRule_spec (v := t.mu.toNat + st.2) (by omega) (by omega)
  generalize unitsRule (t.mu.toNat + st.2) = mu at *
  obtain ⟨hmt0, hmt5, hmtSum, hmtl, hmtu, -, -⟩ := tensRule_spec (v := t.mt.toNat + mu.2) (by omega) (by omega)
  generalize tensRule (t.mt.toNat + mu.2) = mt at *
  obtain ⟨hht2, hhu0, hhu9, -, hhSum⟩ :=
    hoursRule_spec (ht := t.ht.toNat) (hu := t.hu.toNat) (c := mt.2) (by omega) (by omega) (by omega) (by omega)
      (by omega) hmtl hmtu
  generalize hoursRule t.ht.toNat (t.hu.toNat + mt.2) = h at *
  have hht' := digitOf_toNat hnonneg (by omega)
  have hhu' := digitOf_toNat hhu0 (by omega)
  have hmt' := digitOf_toNat hmt0 (by omega)
  have hmu' := digitOf_toNat hmu0 (by omega)
  have hst' := digitOf_toNat hst0 (by omega)
  have hsu' := digitOf_toNat hsu0 (by omega)
  omega

/-! ### The two directions -/

/-- Upwards the guard never fires, and a valid time is below one day. -/
theorem adjust_inc_secs {t t' : Time} (hvalid : t.valid = true) (hadjust : adjust t 1 = .ok t') :
    t'.secs = (t.secs + 1) % 86400 := by
  have hguard := saturates_inc t
  rw [adjust_of_not_saturates hguard] at hadjust
  cases hadjust
  have hsecs := chainedTime_secs (.inl rfl) hvalid hguard
  have hday := secs_lt_of_valid hvalid
  omega

/-- Downwards the guard takes the place of the one step that would go below 0. -/
theorem adjust_dec_secs {t t' : Time} (hvalid : t.valid = true) (hadjust : adjust t (-1) = .ok t') :
    (t'.secs : Int) = max ((t.secs : Int) - 1) 0 := by
  cases hguard : saturates t (-1) with
  | true =>
    obtain ⟨rfl, -⟩ := (saturates_iff (.inr rfl)).mp hguard
    rw [adjust_of_saturates hguard] at hadjust
    cases hadjust
    simp [Time.secs]
  | false =>
    rw [adjust_of_not_saturates hguard] at hadjust
    cases hadjust
    have hsecs := chainedTime_secs (.inr rfl) hvalid hguard
    have hday := secs_lt_of_valid hvalid
    omega

/-- Settles O12: upwards Adjust answers, and its seconds are the successor. -/
theorem incrementIsSuccessorModuloADay : Obligations.IncrementIsSuccessorModuloADay := by
  refine ⟨fun t hvalid => ?_, rfl⟩
  obtain ⟨t', hadjust⟩ := adjust_ok t 1
  exact ⟨t', hadjust, adjust_inc_secs hvalid hadjust⟩

/-- Settles O13: downwards Adjust answers, and its seconds are the predecessor, 0 from the guard. -/
theorem decrementIsPredecessorSaturatedAtZero : Obligations.DecrementIsPredecessorSaturatedAtZero := by
  refine ⟨fun t hvalid => ?_, rfl⟩
  obtain ⟨t', hadjust⟩ := adjust_ok t (-1)
  exact ⟨t', hadjust, adjust_dec_secs hvalid hadjust⟩

end Sys2Proof.Proofs
end

section
/-! Cycles without a reset from a ready state outside the reserved phase: each answers a next state of the same kind,
so a run of them meets no fault; and what such a cycle does to ACC, the ticks and the adjustments counted
(40_counter.md R67, R68, R85). -/

namespace Sys2Proof.Proofs

open Sys2Proof.Machine Sys2Proof.Safety Sys2Proof.Laws

/-! ### The cycle answers a next state -/

theorem counterNext_ok (p : Params) (r : Regs) (i : Input) : ∃ c, counterNext p r i = .ok c := by
  obtain ⟨t, ht⟩ := adjust_ok r.ctr.time (stepSign r.mode.mode.dir)
  unfold counterNext
  split
  · split
    · exact ⟨_, by rw [ht]; rfl⟩
    · exact ⟨_, rfl⟩
  · exact ⟨_, rfl⟩

theorem displayNext_ok (p : Params) {r : Regs} (h : r.disp.ph ≠ .reserved) : ∃ d, displayNext p r = .ok d := by
  unfold displayNext
  split
  · exact ⟨_, rfl⟩
  · split <;> exact ⟨_, rfl⟩
  · split <;> exact ⟨_, rfl⟩
  next hph => exact absurd hph h

/-- A cycle without a reset keeps registers in range (60_exceptions.md R122), and leaves no reserved phase. -/
theorem regsNext_inRange {p : Params} {r q : Regs} {i : Input} (hlegal : checkLegal p r = none)
    (h : regsNext p r i = .ok q) : checkLegal p q = none ∧ q.disp.ph ≠ .reserved := by
  obtain ⟨hvalid, hacc, hcnt, hsnap⟩ := checkLegal_eq_none.mp hlegal
  obtain ⟨c, d, hc, hd, rfl⟩ := regsNext_eq_ok.mp h
  obtain ⟨hvalid', hacc'⟩ := counterNext_inRange hvalid hacc hc
  obtain ⟨hcnt', hph', -⟩ := displayNext_sequencer hcnt hd
  refine ⟨checkLegal_eq_none.mpr ⟨hvalid', hacc', hcnt', fun pos => ?_⟩, hph'⟩
  dsimp only
  obtain hkept | hloaded := displayNext_snap hd
  · rw [hkept]
    exact hsnap pos
  · rw [hloaded]
    exact resolve_get_le_nine hvalid _ _ pos

/-- A cycle without a reset from a ready state outside the reserved phase answers a next state of that kind. -/
theorem step_of_ready_next {s : State} {r : Regs} (h : Ready s r) (hph : r.disp.ph ≠ .reserved)
    (hrst : isReset s = false) :
    ∃ (t : State) (q : Regs), step s = .next t ∧ Ready t q ∧ q.disp.ph ≠ .reserved ∧
      regsNext s.params r (currentInput s) = .ok q := by
  obtain ⟨c, hc⟩ := counterNext_ok s.params r (currentInput s)
  obtain ⟨d, hd⟩ := displayNext_ok s.params hph
  have hq := regsNext_eq_ok.mpr ⟨c, d, hc, hd, rfl⟩
  have hstep := step_of_ready h hrst
  rw [hq, writeBack_ok] at hstep
  obtain ⟨hw, -, hlegal⟩ := h
  obtain ⟨hlegal', hph'⟩ := regsNext_inRange hlegal hq
  exact ⟨_, _, hstep, ⟨hw, rfl, hlegal'⟩, hph', hq⟩

/-- A reset cycle that answers a next state leaves the reset values, ready and outside the reserved phase. -/
theorem ready_of_reset_step {s t : State} (hrst : isReset s = true) (h : step s = .next t) :
    Ready t (resetRegs s.params (currentInput s)) := by
  obtain ⟨hw, -⟩ := step_next_cases h
  obtain ⟨hvalid, hacc, hcnt, hsnap, -⟩ := regsSafe_regsInvariant.reset s.params (currentInput s) hw
  rw [step_of_reset hw hrst] at h
  cases h
  exact ⟨hw, rfl, checkLegal_eq_none.mpr ⟨hvalid, hacc, hcnt, hsnap⟩⟩

/-! ### What the statements count, in a cycle without a reset -/

section
variable {s : State} {r : Regs} (hrst : isReset s = false)
include hrst

theorem isTick_of_not_rst : isTick s = (currentInput s).tick := by
  unfold isReset at hrst
  simp [isTick, hrst]

theorem isEdge_of_not_rst (hr : s.regs = some r) : isEdge s = edgeNow r (currentInput s) := by
  unfold isReset at hrst
  simp [isEdge, hr, hrst]

/-- The cycle adjusts exactly on a threshold tick (40_counter.md R67). -/
theorem isAdjust_of_not_rst (hr : s.regs = some r) :
    isAdjust s = ((currentInput s).tick && decide (r.ctr.acc = s.params.nTicks - 1)) := by
  simp only [isAdjust, hr, decodeWord_ctrWord s.params r hrst, ctrRow]
  cases (currentInput s).tick <;> by_cases hacc : r.ctr.acc = s.params.nTicks - 1 <;>
    cases r.mode.mode.dir <;> simp [hacc]

end

/-- ACC goes up by one for each tick and down by N_TICKS for each adjustment (40_counter.md R69 to R72). -/
theorem counterNext_acc {p : Params} {r : Regs} {i : Input} {c : CounterRegs} (hn : 1 ≤ p.nTicks)
    (h : counterNext p r i = .ok c) :
    c.acc + p.nTicks * (i.tick && decide (r.ctr.acc = p.nTicks - 1)).toNat = r.ctr.acc + i.tick.toNat := by
  obtain ⟨t, ht⟩ := adjust_ok r.ctr.time (stepSign r.mode.mode.dir)
  unfold counterNext at h
  split at h
  next htick =>
    split at h
    next hlast =>
      rw [ht] at h
      cases h
      simp only [htick, hlast, decide_true, Bool.and_self, Bool.toNat_true]
      omega
    next hlast =>
      cases h
      simp [htick, hlast]
  next hidle =>
    cases h
    simp [hidle]

/-- Over any cycles without a reset: the run meets no fault, and N_TICKS for each adjustment together with the ACC it
ends in make up the ticks and the ACC it began with. -/
theorem run_counts_ticks {s : State} {r : Regs} (k : Nat) (h : Ready s r) (hph : r.disp.ph ≠ .reserved)
    (hk : countCycles isReset k s = 0) :
    ∃ (t : State) (q : Regs), run k s = .next t ∧ Ready t q ∧ q.disp.ph ≠ .reserved ∧
      q.ctr.acc + s.params.nTicks * countCycles isAdjust k s = r.ctr.acc + countCycles isTick k s := by
  induction k generalizing s r with
  | zero => exact ⟨s, r, rfl, h, hph, rfl⟩
  | succ k ih =>
    have hrst : isReset s = false := by
      rw [← Bool.toNat_eq_zero]
      exact Nat.eq_zero_of_add_eq_zero_right hk
    obtain ⟨u, v, hstep, hready, hph', hnext⟩ := step_of_ready_next h hph hrst
    rw [countCycles_succ _ k s u hstep, hrst, Bool.toNat_false, Nat.zero_add] at hk
    obtain ⟨t, q, hrun, hready', hph'', hcount⟩ := ih hready hph' hk
    refine ⟨t, q, by rw [run_succ, hstep, andThen_next, hrun], hready', hph'', ?_⟩
    obtain ⟨hw, hr, -⟩ := h
    obtain ⟨c, d, hc, -, rfl⟩ := regsNext_eq_ok.mp hnext
    have hcycle := counterNext_acc (wellFormed_nTicks hw) hc
    rw [step_params hstep] at hcount
    rw [countCycles_succ _ k s u hstep, countCycles_succ _ k s u hstep, isTick_of_not_rst hrst,
      isAdjust_of_not_rst hrst hr, Nat.mul_add]
    dsimp only at hcount
    omega

/-- Settles O22: a reset leaves ACC at 0, and ACC stays below N_TICKS, so the count of `run_counts_ticks` is the
division of the ticks by N_TICKS. -/
theorem adjustmentsFallOnEveryNthTick : Obligations.AdjustmentsFallOnEveryNthTick := by
  intro s₀ s k hrst hstep hk
  obtain ⟨t, q, hrun, ⟨-, hq, hlegal⟩, -, hcount⟩ :=
    run_counts_ticks k (ready_of_reset_step hrst hstep) (by simp) hk
  obtain ⟨-, hacc, -, -⟩ := checkLegal_eq_none.mp hlegal
  rw [run_params hrun] at hacc
  rw [resetRegs_ctr, Nat.zero_add] at hcount
  obtain ⟨hdiv, hmod⟩ := (Nat.div_mod_unique (Nat.zero_lt_of_lt hacc)).mpr ⟨hcount, hacc⟩
  exact ⟨t, q, hrun, hq, hmod.symm, hdiv.symm⟩

/-! ### The threshold tick -/

/-- At the threshold a tick adjusts by the direction the registers hold (40_counter.md R68). -/
theorem counterNext_threshold {p : Params} {r : Regs} {i : Input} {c : CounterRegs} (htick : i.tick = true)
    (hacc : r.ctr.acc = p.nTicks - 1) (h : counterNext p r i = .ok c) :
    adjust r.ctr.time (stepSign r.mode.mode.dir) = .ok c.time ∧ c.acc = 0 := by
  obtain ⟨t, ht⟩ := adjust_ok r.ctr.time (stepSign r.mode.mode.dir)
  rw [counterNext, if_pos htick, if_pos hacc, ht] at h
  cases h
  exact ⟨ht, rfl⟩

theorem modeNext_dir (r : Regs) (i : Input) :
    (modeNext r i).mode.dir = if edgeNow r i = true then dirOfLevel i.upDown else r.mode.mode.dir := by
  unfold modeNext
  cases edgeNow r i <;> rfl

/-- Settles O20: the counter and the mode registers of the next state are both computed from the registers of the
cycle. -/
theorem thresholdTickUsesTheOldDirection : Obligations.ThresholdTickUsesTheOldDirection := by
  intro s r h hph hrst htick hacc
  obtain ⟨t, q, hstep, ⟨-, hq, hlegal⟩, -, hnext⟩ := step_of_ready_next h hph hrst
  obtain ⟨-, hr, hlegal₀⟩ := h
  have hvalid := checkLegal_valid hlegal₀
  obtain ⟨c, d, hc, -, rfl⟩ := regsNext_eq_ok.mp hnext
  rw [isTick_of_not_rst hrst] at htick
  obtain ⟨hadjust, hacc'⟩ := counterNext_threshold htick hacc hc
  rw [isEdge_of_not_rst hrst hr]
  refine ⟨t, _, hstep, hq, hacc', checkLegal_valid hlegal, fun hdir => ?_, fun hdir => ?_, modeNext_dir r _⟩
  · rw [hdir] at hadjust
    exact adjust_inc_secs hvalid hadjust
  · rw [hdir] at hadjust
    exact adjust_dec_secs hvalid hadjust

end Sys2Proof.Proofs
end

section
/-! The mode registers along runs (41_mode.md R90, R96): every cycle samples the levels, a cycle without an edge keeps
the mode registers, and an edge cycle leaves its own row, whatever stood there before. -/

namespace Sys2Proof.Proofs

open Sys2Proof.Machine Sys2Proof.Safety Sys2Proof.Laws

/-! ### One cycle -/

theorem regsNext_mode {p : Params} {r q : Regs} {i : Input} (h : regsNext p r i = .ok q) :
    q.mode = modeNext r i := by
  obtain ⟨c, d, -, -, rfl⟩ := regsNext_eq_ok.mp h
  rfl

theorem modeNext_of_edge {r : Regs} {i : Input} (h : edgeNow r i = true) :
    modeNext r i = { mode := decisionRow i.changeTime i.upDown, pct := i.changeTime, pud := i.upDown } := by
  rw [modeNext, if_pos h]

/-- Without an edge the levels are those that PCT and PUD hold, so loading them changes nothing (41_mode.md R91). -/
theorem modeNext_of_no_edge {r : Regs} {i : Input} (h : edgeNow r i = false) : modeNext r i = r.mode := by
  have hlevels : ¬ (i.changeTime ≠ r.mode.pct ∨ i.upDown ≠ r.mode.pud) := by simp [← edgeNow_iff, h]
  push Not at hlevels
  obtain ⟨hct, hud⟩ := hlevels
  simp [modeNext, h, hct, hud]

/-- Settles O27: the reset values and the next mode registers both take PCT and PUD from the input of the cycle. -/
theorem everyCycleSamplesTheLevels : Obligations.EveryCycleSamplesTheLevels := by
  intro s t hstep
  obtain ⟨-, q, rfl, rfl | ⟨r, -, hnext⟩⟩ := step_next_cases hstep
  · exact ⟨_, rfl, rfl, rfl⟩
  · refine ⟨q, rfl, ?_⟩
    rw [regsNext_mode hnext]
    exact ⟨rfl, rfl⟩

/-! ### Cycles without a reset -/

theorem countCycles_add {P : State → Bool} {a b : Nat} {s t : State} (h : run a s = .next t) :
    countCycles P (a + b) s = countCycles P a s + countCycles P b t := by
  induction a generalizing s with
  | zero =>
    cases h
    simp [countCycles]
  | succ a ih =>
    obtain ⟨u, hstep, hrun⟩ := andThen_eq_next.mp h
    rw [Nat.add_right_comm, countCycles_succ P _ s u hstep, countCycles_succ P _ s u hstep, ih hrun, Nat.add_assoc]

/-- The first of some cycles without a reset answers a next state, from which the others have no reset either. -/
theorem firstCycle_of_no_reset {k : Nat} {s : State} {r : Regs} (h : Ready s r) (hph : r.disp.ph ≠ .reserved)
    (hk : countCycles isReset (k + 1) s = 0) :
    isReset s = false ∧ ∃ (t : State) (q : Regs), step s = .next t ∧ Ready t q ∧ q.disp.ph ≠ .reserved ∧
      q.mode = modeNext r (currentInput s) ∧ countCycles isReset k t = 0 := by
  have hrst : isReset s = false := by
    rw [← Bool.toNat_eq_zero]
    exact Nat.eq_zero_of_add_eq_zero_right hk
  obtain ⟨t, q, hstep, hready, hph', hnext⟩ := step_of_ready_next h hph hrst
  rw [countCycles_succ _ k s t hstep, hrst, Bool.toNat_false, Nat.zero_add] at hk
  exact ⟨hrst, t, q, hstep, hready, hph', regsNext_mode hnext, hk⟩

/-- Over any cycles without a reset: the run meets no fault, it keeps the mode registers if no cycle has an edge, and
else it ends with the row of the levels that PCT and PUD hold. -/
theorem run_mode {s : State} {r : Regs} (k : Nat) (h : Ready s r) (hph : r.disp.ph ≠ .reserved)
    (hk : countCycles isReset k s = 0) :
    ∃ (t : State) (q : Regs), run k s = .next t ∧ Ready t q ∧ q.disp.ph ≠ .reserved ∧
      (countCycles isEdge k s = 0 → q.mode = r.mode) ∧
      (countCycles isEdge k s ≠ 0 → q.mode.mode = decisionRow q.mode.pct q.mode.pud) := by
  induction k generalizing s r with
  | zero => exact ⟨s, r, rfl, h, hph, fun _ => rfl, fun hne => absurd rfl hne⟩
  | succ k ih =>
    obtain ⟨hrst, u, v, hstep, hready, hph', hmode, hk'⟩ := firstCycle_of_no_reset h hph hk
    obtain ⟨t, q, hrun, hready', hph'', hkept, hrow⟩ := ih hready hph' hk'
    refine ⟨t, q, by rw [run_succ, hstep, andThen_next, hrun], hready', hph'', ?_⟩
    obtain ⟨-, hr, -⟩ := h
    rw [countCycles_succ _ k s u hstep, isEdge_of_not_rst hrst hr]
    cases hedge : edgeNow r (currentInput s) with
    | false =>
      rw [modeNext_of_no_edge hedge] at hmode
      rw [Bool.toNat_false, Nat.zero_add, ← hmode]
      exact ⟨hkept, hrow⟩
    | true =>
      refine ⟨fun hzero => ?_, fun _ => ?_⟩
      · simp at hzero
      · by_cases hlater : countCycles isEdge k u = 0
        · rw [hkept hlater, hmode, modeNext_of_edge hedge]
        · exact hrow hlater

/-- Where the first of some cycles without a reset has an edge and the others have none, the run ends with the mode
registers of that edge. -/
theorem run_mode_of_last_edge {m : Nat} {s v : State} {r : Regs} (h : Ready s r) (hph : r.disp.ph ≠ .reserved)
    (hk : countCycles isReset (m + 1) s = 0) (hedge : isEdge s = true) (hstep : step s = .next v)
    (hlater : countCycles isEdge m v = 0) :
    ∃ (t : State) (q : Regs), run (m + 1) s = .next t ∧ t.regs = some q ∧
      q.mode = { mode := decisionRow (currentInput s).changeTime (currentInput s).upDown,
                 pct := (currentInput s).changeTime, pud := (currentInput s).upDown } := by
  obtain ⟨hrst, v', q', hstep', hready, hph', hmode, hk'⟩ := firstCycle_of_no_reset h hph hk
  obtain rfl : v' = v := by simpa [hstep'] using hstep
  obtain ⟨t, q, hrun, ⟨-, hq, -⟩, -, hkept, -⟩ := run_mode m hready hph' hk'
  obtain ⟨-, hr, -⟩ := h
  rw [isEdge_of_not_rst hrst hr] at hedge
  exact ⟨t, q, by rw [run_succ, hstep, andThen_next, hrun], hq, by rw [hkept hlater, hmode, modeNext_of_edge hedge]⟩

/-- Settles O29: a reset leaves RESET_MODE and the levels of its cycle, `run_mode` says what the cycles after it leave,
and a run with an edge in the cycle after j steps is cut there. -/
theorem modeIsTheLastEdgesRow : Obligations.ModeIsTheLastEdgesRow := by
  intro s₀ s k hrst hstep hk
  have hready := ready_of_reset_step hrst hstep
  have hph : (resetRegs s₀.params (currentInput s₀)).disp.ph ≠ .reserved := by simp
  obtain ⟨t, q, hrun, ⟨-, hq, -⟩, -, hkept, hrow⟩ := run_mode k hready hph hk
  refine ⟨t, q, hrun, hq, fun hnone => ?_, hrow, fun j m u v hj hbefore hedge hcycle hlater => ?_⟩
  · rw [hkept hnone, resetRegs_mode, step_params hstep]
  · obtain rfl : k = j + (m + 1) := by omega
    rw [countCycles_add hbefore] at hk
    obtain ⟨hkj, hkm⟩ := Nat.add_eq_zero_iff.mp hk
    obtain ⟨u', r, hbefore', hready', hph', -, -⟩ := run_mode j hready hph hkj
    obtain rfl : u' = u := by simpa [hbefore'] using hbefore
    obtain ⟨t', q', hafter, hq', hmode⟩ := run_mode_of_last_edge hready' hph' hkm hedge hcycle hlater
    obtain rfl : t' = t := by simpa [run_add, hbefore, hafter] using hrun
    obtain rfl : q' = q := by simpa [hq'] using hq
    rw [hmode]
    exact ⟨rfl, rfl, rfl⟩

end Sys2Proof.Proofs
end

section
/-! The refresh cycle (42_display.md R108): the display registers in each of its cycles, one cycle after the other by
the display family's next registers, and the run through it. -/

namespace Sys2Proof.Proofs

open Sys2Proof.Machine Sys2Proof.Safety Sys2Proof.Laws

/-! ### The display registers while a position is served -/

/-- The display registers in cycle j of the S+2 cycles that serve a position: WRITE, S cycles of HOLD, OFF
(42_display.md R108). -/
def servingRegs (settle : Nat) (snap : Quad Digit) (pos : Fin 4) : Nat → DisplayRegs
  | 0 => ⟨pos, .write, 0, snap⟩
  | j + 1 => if j < settle then ⟨pos, .hold, j, snap⟩ else ⟨pos, .off, 0, snap⟩

section
variable (settle : Nat) (snap : Quad Digit) (pos : Fin 4)

@[simp] theorem servingRegs_zero : servingRegs settle snap pos 0 = ⟨pos, .write, 0, snap⟩ := rfl

theorem servingRegs_hold {j : Nat} (h : j < settle) :
    servingRegs settle snap pos (j + 1) = ⟨pos, .hold, j, snap⟩ := if_pos h

theorem servingRegs_off : servingRegs settle snap pos (settle + 1) = ⟨pos, .off, 0, snap⟩ :=
  if_neg (Nat.lt_irrefl settle)

@[simp] theorem servingRegs_pos (j : Nat) : (servingRegs settle snap pos j).pos = pos := by
  unfold servingRegs
  split
  · rfl
  · split <;> rfl

@[simp] theorem servingRegs_snap (j : Nat) : (servingRegs settle snap pos j).snap = snap := by
  unfold servingRegs
  split
  · rfl
  · split <;> rfl

theorem servingRegs_not_reserved (j : Nat) : (servingRegs settle snap pos j).ph ≠ .reserved := by
  unfold servingRegs
  split
  · simp
  · split <;> simp

theorem servingRegs_hold_iff (j : Nat) : (servingRegs settle snap pos j).ph = .hold ↔ 1 ≤ j ∧ j ≤ settle := by
  unfold servingRegs
  split
  · simp
  next j =>
    split
    next hlt => simpa using hlt
    next hge => simpa using hge

end

/-- The outputs while a position is served: its entry of the snapshot, enabled in the HOLD cycles alone. -/
theorem outputsOf_servingRegs {r : Regs} {settle : Nat} {snap : Quad Digit} {pos : Fin 4} {j : Nat}
    (h : r.disp = servingRegs settle snap pos j) :
    outputsOf r =
      { ind := r.mode.mode.ind, sel := if 1 ≤ j ∧ j ≤ settle then onehot4 pos else 0, digit := snap.get pos } := by
  simp only [outputsOf, h, servingRegs_pos, servingRegs_snap, servingRegs_hold_iff]

section
variable {p : Params} {r : Regs} {snap : Quad Digit} {pos : Fin 4}

/-- Before its OFF cycle the position stays served (42_display.md R102 to R104). -/
theorem displayNext_servingRegs (hsettle : 1 ≤ p.settle) {j : Nat} (hj : j ≤ p.settle)
    (h : r.disp = servingRegs p.settle snap pos j) :
    displayNext p r = .ok (servingRegs p.settle snap pos (j + 1)) := by
  cases j with
  | zero => simp [displayNext, h, servingRegs_hold _ _ _ hsettle]
  | succ j =>
    obtain rfl | hlt : j = p.settle - 1 ∨ j + 1 < p.settle := by omega
    · rw [Nat.sub_add_cancel hsettle, servingRegs_off]
      simp [displayNext, h, servingRegs_hold _ _ _ (Nat.sub_one_lt_of_lt hsettle)]
    · have hne : j ≠ p.settle - 1 := by omega
      simp [displayNext, h, servingRegs_hold _ _ _ hj, servingRegs_hold _ _ _ hlt, hne]

/-- The OFF cycle of a position but the last goes on to the next one (42_display.md R105). -/
theorem displayNext_servingRegs_next (hpos : pos ≠ 3) (h : r.disp = servingRegs p.settle snap pos (p.settle + 1)) :
    displayNext p r = .ok (servingRegs p.settle snap (pos + 1) 0) := by
  simp [displayNext, h, servingRegs_off, hpos]

/-- The OFF cycle of the last position reloads the snapshot (42_display.md R106). -/
theorem displayNext_servingRegs_wrap (h : r.disp = servingRegs p.settle snap 3 (p.settle + 1)) :
    displayNext p r = .ok ⟨0, .write, 0, resolve p.posMap r.mode.mode.page r.ctr.time⟩ := by
  simp [displayNext, h, servingRegs_off]

end

/-! ### The cycles of a refresh cycle -/

/-- The display registers in cycle k of a refresh cycle: cycle k mod (S+2) of position k / (S+2) (42_display.md R108). -/
def refreshRegs (settle : Nat) (snap : Quad Digit) (k : Nat) : DisplayRegs :=
  servingRegs settle snap (Fin.ofNat 4 (k / (settle + 2))) (k % (settle + 2))

theorem refreshRegs_snap (settle : Nat) (snap : Quad Digit) (k : Nat) : (refreshRegs settle snap k).snap = snap :=
  servingRegs_snap ..

theorem refreshRegs_not_reserved (settle : Nat) (snap : Quad Digit) (k : Nat) :
    (refreshRegs settle snap k).ph ≠ .reserved :=
  servingRegs_not_reserved _ _ _ _

theorem refreshRegs_start {d : DisplayRegs} (settle : Nat) (hpos : d.pos = 0) (hph : d.ph = .write)
    (hcnt : d.cnt = 0) : d = refreshRegs settle d.snap 0 := by
  obtain ⟨pos, ph, cnt, snap⟩ := d
  subst hpos hph hcnt
  simp [refreshRegs]

theorem refreshRegs_last (settle : Nat) (snap : Quad Digit) :
    refreshRegs settle snap (4 * (settle + 2) - 1) = servingRegs settle snap 3 (settle + 1) := by
  obtain ⟨hdiv, hmod⟩ : (4 * (settle + 2) - 1) / (settle + 2) = 3 ∧
      (4 * (settle + 2) - 1) % (settle + 2) = settle + 1 :=
    (Nat.div_mod_unique (by omega)).mpr ⟨by omega, by omega⟩
  rw [refreshRegs, hdiv, hmod]
  rfl

/-- Positions 0 to 2 are followed by the next number. -/
theorem position_succ {a : Nat} (h : a < 3) : Fin.ofNat 4 a ≠ 3 ∧ Fin.ofNat 4 (a + 1) = Fin.ofNat 4 a + 1 := by
  interval_cases a <;> decide

/-- Each cycle of a refresh cycle but the last is followed by the next one. -/
theorem displayNext_refreshRegs {p : Params} {r : Regs} {snap : Quad Digit} {k : Nat} (hsettle : 1 ≤ p.settle)
    (hk : k + 1 < p.period) (h : r.disp = refreshRegs p.settle snap k) :
    displayNext p r = .ok (refreshRegs p.settle snap (k + 1)) := by
  have hpos : 0 < p.settle + 2 := by omega
  have hsplit := Nat.mod_add_div k (p.settle + 2)
  have hj : k % (p.settle + 2) < p.settle + 2 := Nat.mod_lt k hpos
  unfold refreshRegs at h ⊢
  generalize k / (p.settle + 2) = a, k % (p.settle + 2) = j at *
  obtain hstay | rfl : j ≤ p.settle ∨ j = p.settle + 1 := by omega
  · obtain ⟨hdiv, hmod⟩ : (k + 1) / (p.settle + 2) = a ∧ (k + 1) % (p.settle + 2) = j + 1 :=
      (Nat.div_mod_unique hpos).mpr ⟨by omega, by omega⟩
    rw [hdiv, hmod]
    exact displayNext_servingRegs hsettle hstay h
  · obtain ⟨hdiv, hmod⟩ : (k + 1) / (p.settle + 2) = a + 1 ∧ (k + 1) % (p.settle + 2) = 0 :=
      (Nat.div_mod_unique hpos).mpr ⟨by rw [Nat.mul_add]; omega, hpos⟩
    have hmore : a < 3 := by
      unfold Params.period at hk
      have hlt : (p.settle + 2) * (a + 1) < (p.settle + 2) * 4 := by rw [Nat.mul_add]; omega
      exact Nat.lt_of_succ_lt_succ (Nat.lt_of_mul_lt_mul_left hlt)
    obtain ⟨hne, hsucc⟩ := position_succ hmore
    rw [hdiv, hmod, hsucc]
    exact displayNext_servingRegs_next hne h

/-! ### The run through a refresh cycle -/

theorem regsNext_disp {p : Params} {r q : Regs} {i : Input} (h : regsNext p r i = .ok q) :
    displayNext p r = .ok q.disp := by
  obtain ⟨c, d, -, hd, rfl⟩ := regsNext_eq_ok.mp h
  exact hd

/-- A run inside some cycles without a reset goes on by one more cycle. -/
theorem run_next_of_no_reset {n k : Nat} {s t : State} {q : Regs} (hrun : run k s = .next t) (h : Ready t q)
    (hph : q.disp.ph ≠ .reserved) (hk : k < n) (hn : countCycles isReset n s = 0) :
    ∃ (u : State) (v : Regs), run (k + 1) s = .next u ∧ Ready u v ∧ displayNext s.params q = .ok v.disp := by
  obtain ⟨m, rfl⟩ : ∃ m, n = k + (m + 1) := ⟨n - k - 1, by omega⟩
  rw [countCycles_add hrun] at hn
  obtain ⟨hrst, -⟩ := firstCycle_of_no_reset h hph (Nat.add_eq_zero_iff.mp hn).2
  obtain ⟨u, v, hstep, hready, -, hnext⟩ := step_of_ready_next h hph hrst
  rw [run_params hrun] at hnext
  exact ⟨u, v, by rw [run_add, hrun, andThen_next, run_succ, hstep]; rfl, hready, regsNext_disp hnext⟩

/-- In cycle k of a refresh cycle without a reset the display registers are those of that cycle. -/
theorem run_refreshRegs {s : State} {r : Regs} (h : Ready s r)
    (hstart : r.disp = refreshRegs s.params.settle r.disp.snap 0) (hn : countCycles isReset s.params.period s = 0)
    {k : Nat} (hk : k < s.params.period) :
    ∃ (t : State) (q : Regs), run k s = .next t ∧ Ready t q ∧ q.disp = refreshRegs s.params.settle r.disp.snap k := by
  induction k with
  | zero => exact ⟨s, r, rfl, h, hstart⟩
  | succ k ih =>
    obtain ⟨t, q, hrun, hready, hq⟩ := ih (Nat.lt_of_succ_lt hk)
    have hph : q.disp.ph ≠ .reserved := hq ▸ refreshRegs_not_reserved _ _ _
    obtain ⟨u, v, hrun', hready', hnext⟩ := run_next_of_no_reset hrun hready hph (Nat.lt_of_succ_lt hk) hn
    rw [displayNext_refreshRegs (wellFormed_settle h.1) hk hq] at hnext
    exact ⟨u, v, hrun', hready', (Except.ok.inj hnext).symm⟩

/-- The edge of the last cycle of a refresh cycle loads the snapshot from the page and the digits of that cycle. -/
theorem run_refreshRegs_wrap {s : State} {r : Regs} (h : Ready s r)
    (hstart : r.disp = refreshRegs s.params.settle r.disp.snap 0) (hn : countCycles isReset s.params.period s = 0) :
    ∃ (t u : State) (q v : Regs), run (s.params.period - 1) s = .next t ∧ run s.params.period s = .next u ∧
      t.regs = some q ∧ u.regs = some v ∧
      v.disp = ⟨0, .write, 0, resolve s.params.posMap q.mode.mode.page q.ctr.time⟩ := by
  have hperiod : s.params.period - 1 < s.params.period := Nat.sub_one_lt (by unfold Params.period; omega)
  obtain ⟨t, q, hrun, hready, hq⟩ := run_refreshRegs h hstart hn hperiod
  have hph : q.disp.ph ≠ .reserved := hq ▸ refreshRegs_not_reserved _ _ _
  obtain ⟨u, v, hrun', ⟨-, hv, -⟩, hnext⟩ := run_next_of_no_reset hrun hready hph hperiod hn
  rw [Params.period, refreshRegs_last] at hq
  rw [displayNext_servingRegs_wrap hq] at hnext
  rw [Nat.sub_add_cancel (Nat.one_le_of_lt hperiod)] at hrun'
  obtain ⟨-, hqt, -⟩ := hready
  exact ⟨t, u, q, v, hrun, hrun', hqt, hv, (Except.ok.inj hnext).symm⟩

theorem onehot4_ofNat {a : Nat} (h : a < 4) : onehot4 (Fin.ofNat 4 a) = 1#4 <<< a := by
  rw [onehot4, Fin.val_ofNat, Nat.mod_eq_of_lt h]

/-- Settles O35: `refreshRegs` are the display registers of every cycle, from which the outputs are read off; the last
of these cycles is the wrap; and the reset values begin a refresh cycle. -/
theorem refreshCycleDrivesEachPosition : Obligations.RefreshCycleDrivesEachPosition := by
  refine ⟨fun s r h hpos hph hcnt hn => ?_, fun s hw hrst => ⟨_, _, step_of_reset hw hrst, rfl, rfl, rfl, rfl⟩⟩
  have hstart := refreshRegs_start s.params.settle hpos hph hcnt
  refine ⟨fun k hk => ?_, run_refreshRegs_wrap h hstart hn⟩
  obtain ⟨t, q, hrun, ⟨-, hqt, -⟩, hq⟩ := run_refreshRegs h hstart hn hk
  have hserved : k / (s.params.settle + 2) < 4 := Nat.div_lt_of_lt_mul (by rwa [Nat.mul_comm])
  refine ⟨t, q, hrun, hqt, by rw [hq, refreshRegs_snap], ?_⟩
  rw [outputs_of_regs hqt, outputsOf_servingRegs hq, onehot4_ofNat hserved]

end Sys2Proof.Proofs
end

section
/-! The reserved phase (42_display.md R107): its row faults, its words are those with PH = 0b11, and no operation and no
run brings it about. -/

namespace Sys2Proof.Proofs

open Sys2Proof.Machine Sys2Proof.Safety Sys2Proof.Laws

/-! ### The row of the reserved phase and its words -/

theorem exec_muxReserved (s : State) (last wrap : Bool) :
    exec (.muxReserved last wrap) s = checked s fun _ => .fault .reservedPhase := rfl

theorem exec_muxReserved_ne_next (s t : State) (last wrap : Bool) : exec (.muxReserved last wrap) s ≠ .next t := by
  intro h
  obtain ⟨r, -, hfault⟩ := checked_eq_next.mp h
  cases hfault

/-- Within the width of the format, the words of MUX_RESERVED are MUX = 0xx11 (30_encoding.md R60). -/
theorem decodeWord_mux_muxReserved_of_fits : ∀ w < 2 ^ Format.mux.width,
    (∃ last wrap, decodeWord .mux w = .ok (.muxReserved last wrap)) ↔ w < 16 ∧ w % 4 = 0b11 := by
  decide

theorem decodeWord_tooWide {f : Format} {w : Nat} (h : ¬ w < 2 ^ f.width) : decodeWord f w = .error (.tooWide f w) := by
  rw [decodeWord, if_neg h]

theorem decodeWord_mux_muxReserved (w : Nat) :
    (∃ last wrap, decodeWord .mux w = .ok (.muxReserved last wrap)) ↔ w < 16 ∧ w % 4 = 0b11 := by
  by_cases hfits : w < 2 ^ Format.mux.width
  · exact decodeWord_mux_muxReserved_of_fits w hfits
  · have hlarge : ¬ w < 16 := fun h => hfits (h.trans (by decide))
    simp [decodeWord_tooWide hfits, hlarge]

/-! ### The phase after an operation -/

/-- RESET answers next only with the reset values. -/
theorem exec_reset_eq_next {s t : State} (h : exec .reset s = .next t) :
    t.regs = some (resetRegs s.params (currentInput s)) := by
  change configured s _ = _ at h
  unfold configured at h
  split at h
  · cases h
    rfl
  · cases h

/-- A checked write that answers next wrote the registers that the state holds. -/
theorem checked_next_eq_next {s t : State} {put : Regs → State} (h : checked s (fun r => .next (put r)) = .next t) :
    ∃ r, s.regs = some r ∧ put r = t := by
  obtain ⟨r, ⟨-, hr, -⟩, hput⟩ := checked_eq_next.mp h
  exact ⟨r, hr, Host.Outcome.next.inj hput⟩

/-- The adjustment writes the counter registers only. -/
theorem checked_applyAdjust_eq_next {s t : State} {step : Int} (h : checked s (applyAdjust s · step) = .next t) :
    ∃ r c, s.regs = some r ∧ s.putCounter r c = t := by
  obtain ⟨r, ⟨-, hr, -⟩, hadjust⟩ := checked_eq_next.mp h
  rw [applyAdjust_eq_writeBack] at hadjust
  obtain ⟨c, -, rfl⟩ := writeBack_eq_next.mp hadjust
  exact ⟨r, c, hr, rfl⟩

/-- The phase that an operation leaves is the one it began in, or one of the three that the MUX rows and RESET write. -/
theorem exec_next_phase {i : Instr} {s t : State} (h : exec i s = .next t) :
    ∃ q, t.regs = some q ∧ (q.disp.ph ≠ .reserved ∨ ∃ r, s.regs = some r ∧ q.disp.ph = r.disp.ph) := by
  cases i with
  | reset => exact ⟨_, exec_reset_eq_next h, .inl (by simp)⟩
  | ctrIdle =>
    obtain ⟨r, hr, rfl⟩ := checked_next_eq_next h
    exact ⟨r, hr, .inr ⟨r, hr, rfl⟩⟩
  | adjustDec | adjustInc =>
    obtain ⟨r, c, hr, rfl⟩ := checked_applyAdjust_eq_next h
    exact ⟨_, rfl, .inr ⟨r, hr, rfl⟩⟩
  | tickCount | modeHold | modeSecondsDec | modeSecondsInc | modeHoursDec | modeHoursInc | muxHoldStay =>
    obtain ⟨r, hr, rfl⟩ := checked_next_eq_next h
    exact ⟨_, rfl, .inr ⟨r, hr, rfl⟩⟩
  | muxWrite | muxHoldEnd | muxOffNext | muxOffWrap =>
    obtain ⟨r, -, rfl⟩ := checked_next_eq_next h
    exact ⟨_, rfl, .inl (by simp)⟩
  | muxReserved => exact absurd h (exec_muxReserved_ne_next s t _ _)

theorem reachable_not_reserved {s : State} {r : Regs} (hs : Reachable s) (hr : s.regs = some r) :
    r.disp.ph ≠ .reserved := by
  obtain ⟨-, -, -, -, hph, -, -⟩ := reachable_regsInvariant regsSafe_regsInvariant hs r hr
  exact hph

/-- Settles O33: the row is its fault behind the checks, `exec_next_phase` says which phases an operation leaves, and
the invariant `RegsSafe` keeps the phase out of every run. -/
theorem reservedPhaseFaults : Obligations.ReservedPhaseFaults := by
  refine ⟨fun s r last wrap h => ?_, exec_muxReserved_ne_next, fun s t i q h hq hph => ?_,
    decodeWord_mux_muxReserved, fun s r hs hr => reachable_not_reserved hs hr⟩
  · rw [exec_muxReserved, checked_ready h]
  · obtain ⟨q', hq', hcases⟩ := exec_next_phase h
    obtain rfl : q' = q := by simpa [hq'] using hq
    obtain hother | ⟨r, hr, hkept⟩ := hcases
    · exact absurd hph hother
    · exact ⟨r, hr, hkept.symm.trans hph⟩

end Sys2Proof.Proofs
end

section
/-! The step as a whole (43_cycle.md R114, R116, R117): the rows that the decode words select, what a step's answer
depends on, and from which states it answers whatever the input. -/

namespace Sys2Proof.Proofs

open Sys2Proof.Machine Sys2Proof.Safety Sys2Proof.Laws

/-- Settles O5: RSTW selects by RST alone, and `ctrRow`, `modeRow` and `muxRow`, the branches of the pseudocode, are the
rows that the other three words select. -/
theorem selectedRowsFollowTheStepBranches : Obligations.SelectedRowsFollowTheStepBranches := by
  refine ⟨fun i j => ?_, fun p r i hrst => ⟨_, selectRows_of_not_rst p r hrst, rfl, rfl, rfl⟩⟩
  rw [decodeWord_rstw]
  cases i.rst <;> simp [eq_comm]

/-! ### What the answer depends on -/

/-- The registers that a cycle leaves when it answers next, from the configuration, the registers and the input of the
cycle: the reset values, or the next registers of legal ones (43_cycle.md R114). -/
def Leaves (p : Params) (g : Option Regs) (i : Input) (q : Regs) : Prop :=
  p.wellFormed = true ∧
    ((i.rst = true ∧ q = resetRegs p i) ∨
      (i.rst = false ∧ ∃ r, g = some r ∧ checkLegal p r = none ∧ regsNext p r i = .ok q))

theorem ready_of_step_eq_next {s t : State} (hrst : isReset s = false) (h : step s = .next t) : ∃ r, Ready s r := by
  obtain ⟨u, heffect, -⟩ := step_eq_next.mp h
  rw [cycleEffect_of_not_rst hrst] at heffect
  obtain ⟨r, hready, -⟩ := checked_eq_next.mp heffect
  exact ⟨r, hready⟩

/-- A step answers next exactly with registers that `Leaves` gives, and with the edge that ends the cycle. -/
theorem step_eq_next_iff_leaves {s t : State} :
    step s = .next t ↔ ∃ q, Leaves s.params s.regs (currentInput s) q ∧ t = advance { s with regs := some q } := by
  constructor
  · intro h
    obtain ⟨hw, -⟩ := step_next_cases h
    cases hrst : isReset s with
    | true =>
      rw [step_of_reset hw hrst] at h
      exact ⟨_, ⟨hw, .inl ⟨hrst, rfl⟩⟩, (Host.Outcome.next.inj h).symm⟩
    | false =>
      obtain ⟨r, hready⟩ := ready_of_step_eq_next hrst h
      rw [step_of_ready hready hrst] at h
      obtain ⟨q, hq, rfl⟩ := writeBack_eq_next.mp h
      obtain ⟨-, hr, hlegal⟩ := hready
      exact ⟨q, ⟨hw, .inr ⟨hrst, r, hr, hlegal, hq⟩⟩, rfl⟩
  · rintro ⟨q, ⟨hw, ⟨hrst, rfl⟩ | ⟨hrst, r, hr, hlegal, hq⟩⟩, rfl⟩
    · exact step_of_reset hw hrst
    · rw [step_of_ready ⟨hw, hr, hlegal⟩ hrst, hq, writeBack_ok]

/-- A well-formed configuration's step is never refused, so it answers next or a fault (60_exceptions.md R123). -/
theorem step_next_or_fault {s : State} (hw : s.params.wellFormed = true) :
    (∃ t, step s = .next t) ∨ ∃ f, step s = .fault f := by
  cases h : step s with
  | next t => exact .inl ⟨t, rfl⟩
  | fault f => exact .inr ⟨f, rfl⟩
  | refused x =>
    obtain ⟨hill, -⟩ := step_eq_refused.mp h
    simp [hill] at hw

/-! ### Where every input is answered -/

/-- Ready outside the reserved phase is kept by every cycle, a reset included, and never stops the machine. -/
theorem step_of_ready_any_input {s : State} {r : Regs} (h : Ready s r) (hph : r.disp.ph ≠ .reserved) :
    ∃ (t : State) (q : Regs), step s = .next t ∧ Ready t q ∧ q.disp.ph ≠ .reserved := by
  cases hrst : isReset s with
  | true =>
    obtain ⟨hw, -⟩ := h
    have hstep := step_of_reset hw hrst
    exact ⟨_, _, hstep, ready_of_reset_step hrst hstep, by simp⟩
  | false =>
    obtain ⟨t, q, hstep, hready, hph', -⟩ := step_of_ready_next h hph hrst
    exact ⟨t, q, hstep, hready, hph'⟩

theorem runsSafely_succ {k : Nat} {s t : State} (hstep : step s = .next t) (h : RunsSafely k t) :
    RunsSafely (k + 1) s := by
  obtain ⟨u, hrun⟩ := h
  exact ⟨u, by rw [run_succ, hstep, andThen_next, hrun]⟩

theorem runsSafely_of_ready {s : State} {r : Regs} (k : Nat) (h : Ready s r) (hph : r.disp.ph ≠ .reserved) :
    RunsSafely k s := by
  induction k generalizing s r with
  | zero => exact ⟨s, rfl⟩
  | succ k ih =>
    obtain ⟨t, q, hstep, hready, hph'⟩ := step_of_ready_any_input h hph
    exact runsSafely_succ hstep (ih hready hph')

/-- A run that begins with a reset cycle meets no fault, from any registers or none. -/
theorem runsSafely_of_reset {s : State} (k : Nat) (hw : s.params.wellFormed = true) (hrst : isReset s = true) :
    RunsSafely k s := by
  cases k with
  | zero => exact ⟨s, rfl⟩
  | succ k =>
    have hstep := step_of_reset hw hrst
    exact runsSafely_succ hstep (runsSafely_of_ready k (ready_of_reset_step hrst hstep) (by simp))

/-- Settles O49: ready states outside the reserved phase answer every input and lead to such states, as a reset does;
and `Leaves` reads nothing but the configuration, the registers and the input. -/
theorem stepIsTotalAndDeterministic : Obligations.StepIsTotalAndDeterministic := by
  refine ⟨fun s r h hph => ?_, fun s s' t hp hg hi h => ?_, fun s hw => step_next_or_fault hw,
    fun p i ins k hw hrst => runsSafely_of_reset k hw hrst⟩
  · obtain ⟨t, -, hstep, -⟩ := step_of_ready_any_input h hph
    exact ⟨t, hstep⟩
  · obtain ⟨q, hq, rfl⟩ := step_eq_next_iff_leaves.mp h
    rw [hp, hg, hi] at hq
    exact ⟨_, step_eq_next_iff_leaves.mpr ⟨q, hq, rfl⟩, rfl, hp.symm⟩

end Sys2Proof.Proofs
end

section
/-! The fault table (60_exceptions.md R122): what CheckLegal reports, and exactly when a step faults. -/

namespace Sys2Proof.Proofs

open Sys2Proof.Machine Sys2Proof.Safety Sys2Proof.Laws

/-! ### The checks in the table's order -/

theorem snap_any_gt_nine_iff {q : Quad Digit} :
    q.toList.any (fun d => decide (9 < d.toNat)) = true ↔ ∃ pos : Fin 4, 9 < (q.get pos).toNat := by
  simp [mem_quad_toList]

/-- CheckLegal as the table words its cases 2 to 5, the snapshot's by position. -/
theorem checkLegal_eq_table (p : Params) (r : Regs) :
    checkLegal p r =
      if r.ctr.time.valid = false then some .digitOutOfRange
      else if p.nTicks ≤ r.ctr.acc then some .accOutOfRange
      else if p.settle ≤ r.disp.cnt then some .cntOutOfRange
      else if ∃ pos : Fin 4, 9 < (r.disp.snap.get pos).toNat then some .snapOutOfRange
      else none := by
  simp only [checkLegal, snap_any_gt_nine_iff]

/-! ### The faults of the rows -/

theorem writeBack_eq_fault {α : Type} {w : Except Fault α} {put : α → State} {f : Fault} :
    writeBack w put = .fault f ↔ w = .error f := by
  cases w <;> simp

theorem displayNext_eq_error {p : Params} {r : Regs} {f : Fault} :
    displayNext p r = .error f ↔ r.disp.ph = .reserved ∧ f = .reservedPhase := by
  by_cases hph : r.disp.ph = .reserved
  · simp [displayNext, hph, eq_comm]
  · obtain ⟨d, hd⟩ := displayNext_ok p hph
    simp [hd, hph]

/-- The only fault behind the checks is the reserved phase: the counter's write never fails (40_counter.md R83). -/
theorem regsNext_eq_error {p : Params} {r : Regs} {i : Input} {f : Fault} :
    regsNext p r i = .error f ↔ r.disp.ph = .reserved ∧ f = .reservedPhase := by
  obtain ⟨c, hc⟩ := counterNext_ok p r i
  rw [← displayNext_eq_error (p := p), regsNext, hc]
  cases displayNext p r <;> simp [Bind.bind, Except.bind, Pure.pure, Except.pure]

/-! ### The faults of a step -/

/-- With registers, the step's fault is the one of the checks, and where they pass the reserved phase's. -/
theorem step_eq_fault_of_regs {s : State} {r : Regs} {f : Fault} (hw : s.params.wellFormed = true)
    (hrst : isReset s = false) (hr : s.regs = some r) :
    step s = .fault f ↔
      checkLegal s.params r = some f ∨
        (checkLegal s.params r = none ∧ r.disp.ph = .reserved ∧ f = .reservedPhase) := by
  cases hlegal : checkLegal s.params r with
  | none => simp [step_of_ready ⟨hw, hr, hlegal⟩ hrst, writeBack_eq_fault, regsNext_eq_error]
  | some g => simp [step_eq_fault_of_checked hrst (checked_illegal hw hr hlegal _)]

theorem outputs_eq_error {s : State} {f : Fault} :
    outputs s = .error f ↔ s.regs = none ∧ f = .readBeforeReset := by
  cases hr : s.regs with
  | none => simp [outputs_noValue hr, eq_comm]
  | some r => simp [outputs_of_regs hr]

/-! ### A CNT that is not 0 outside HOLD -/

/-- In WRITE and in OFF the MUX row writes CNT <- 0, whatever CNT was (42_display.md R102, R105, R106). -/
theorem displayNext_cnt_outside_hold {p : Params} {r : Regs} {d : DisplayRegs} (hph : r.disp.ph ≠ .hold)
    (h : displayNext p r = .ok d) : d.cnt = 0 := by
  unfold displayNext at h
  split at h
  · cases h; rfl
  next hhold => exact absurd hhold hph
  · split at h <;> cases h <;> rfl
  · cases h

theorem step_cnt_outside_hold {s : State} {r : Regs} (h : Ready s r) (hres : r.disp.ph ≠ .reserved)
    (hhold : r.disp.ph ≠ .hold) :
    ∃ (t : State) (q : Regs), step s = .next t ∧ t.regs = some q ∧ q.disp.cnt = 0 := by
  cases hrst : isReset s with
  | true =>
    obtain ⟨hw, -⟩ := h
    exact ⟨_, _, step_of_reset hw hrst, rfl, rfl⟩
  | false =>
    obtain ⟨t, q, hstep, ⟨-, hq, -⟩, -, hnext⟩ := step_of_ready_next h hres hrst
    obtain ⟨c, d, -, hd, rfl⟩ := regsNext_eq_ok.mp hnext
    exact ⟨t, _, hstep, hq, displayNext_cnt_outside_hold hhold hd⟩

/-- Settles O56: a reset cycle never faults; without one the checks run in the table's order, and behind them only the
reserved phase faults, since Adjust always answers a time. -/
theorem faultsFollowTheTablesOrder : Obligations.FaultsFollowTheTablesOrder := by
  refine ⟨fun s f hw => ?_, fun s f => outputs_eq_error, fun t sign h => ?_,
    fun s r h hres hhold => step_cnt_outside_hold h hres hhold⟩
  · cases hrst : isReset s with
    | true => simp [step_of_reset hw hrst]
    | false =>
      cases hr : s.regs with
      | none => simp [step_eq_fault_of_checked hrst (checked_noValue hw hr _), eq_comm]
      | some r =>
        rw [step_eq_fault_of_regs hw hrst hr, checkLegal_eq_table]
        dsimp only
        split_ifs <;> simp [eq_comm (b := f)]
  · obtain ⟨t', hok⟩ := adjust_ok t sign
    simp [hok] at h

end Sys2Proof.Proofs
end

section
/-! RESET (70_reset_and_hazards.md R139): its operation loads the reset values from any state, and with RST = 1 no word
of the three families is a row. -/

namespace Sys2Proof.Proofs

open Sys2Proof.Machine Sys2Proof.Safety Sys2Proof.Laws

theorem exec_reset_of_wellFormed {s : State} (hw : s.params.wellFormed = true) :
    exec .reset s = .next { s with regs := some (resetRegs s.params (currentInput s)) } := by
  change configured s _ = _
  rw [configured, if_pos hw]

/-- From NOVALUE nothing but RESET completes: the other rows answer next in ready states alone (10_state.md R34). -/
theorem eq_reset_of_exec_noValue_eq_next {s t : State} {i : Instr} (hr : s.regs = none) (h : exec i s = .next t) :
    i = .reset := by
  by_contra hi
  obtain ⟨k, hexec, -⟩ := exec_eq_checked hi s
  obtain ⟨r, ⟨-, hregs, -⟩, -⟩ := checked_eq_next.mp (hexec.symm.trans h)
  simp [hr] at hregs

/-- A word of the three families that fits its format and has RST = 1 is no row (30_encoding.md R61). -/
theorem decodeWord_of_top_bit_set {f : Format} {w : Nat} (hf : f ≠ .rstw) (hw : w < 2 ^ f.width)
    (htop : w.testBit (f.width - 1) = true) : decodeWord f w = .error (.noRow f w) := by
  have hnone : operationMap.find? (fun row => row.selects f w) = none :=
    List.find?_eq_none.mpr (List.filter_eq_nil_iff.mp (selectedRows_eq_nil_of_top_bit_set hf htop))
  rw [decodeWord, if_pos hw, hnone]

/-- Settles O43: RESET loads `resetRegs`, every other row asks for registers, and the top bit of the three words of a
reset cycle is RST. -/
theorem resetLoadsEveryRegister : Obligations.ResetLoadsEveryRegister := by
  refine ⟨fun s hw => ⟨_, exec_reset_of_wellFormed hw, rfl, rfl, rfl⟩,
    fun s t i hr h => eq_reset_of_exec_noValue_eq_next hr h, rfl, fun p r i hrst => ⟨?_, ?_, ?_⟩,
    fun s hw hseed hmode hmap hin => ⟨_, exec_reset_of_wellFormed hw, ?_, ?_, ?_⟩⟩
  · obtain ⟨hfits, htop, -⟩ := ctrWord_fields p r i
    exact decodeWord_of_top_bit_set (by simp) hfits (htop.trans hrst)
  · obtain ⟨hfits, htop, -⟩ := modeWord_fields r i
    exact decodeWord_of_top_bit_set (by simp) hfits (htop.trans hrst)
  · obtain ⟨hfits, htop, -⟩ := muxWord_fields p r i
    exact decodeWord_of_top_bit_set (by simp) hfits (htop.trans hrst)
  · rw [resetRegs_ctr, hseed]
    rfl
  · rw [resetRegs_mode, hmode, hin]
    rfl
  · rw [resetRegs_disp, hmap, hmode, hseed]
    rfl

end Sys2Proof.Proofs
end

section
/-! Steady levels after a reset (70_reset_and_hazards.md R141): levels that stay what PCT and PUD hold make no edge, and
under Increment cycles without a reset or an edge add a second for each adjustment. -/

namespace Sys2Proof.Proofs

open Sys2Proof.Machine Sys2Proof.Safety Sys2Proof.Laws

/-! ### Levels that stay -/

theorem step_inputs {s t : State} (h : step s = .next t) : t.inputs = s.inputs.tail := by
  obtain ⟨-, q, rfl, -⟩ := step_next_cases h
  rfl

theorem currentInput_of_cons {s : State} {i : Input} {later : List Input} (h : s.inputs = i :: later) :
    currentInput s = i := by
  simp [currentInput, h]

/-- Placed cycles without a reset, at the levels that PCT and PUD hold, are counted neither as resets nor as edges. -/
theorem countCycles_of_steady_levels {steady later : List Input} {s : State} {r : Regs} (h : Ready s r)
    (hph : r.disp.ph ≠ .reserved) (hin : s.inputs = steady ++ later)
    (hsteady : ∀ i ∈ steady, i.rst = false ∧ i.changeTime = r.mode.pct ∧ i.upDown = r.mode.pud) :
    countCycles isReset steady.length s = 0 ∧ countCycles isEdge steady.length s = 0 := by
  induction steady generalizing s r with
  | nil => exact ⟨rfl, rfl⟩
  | cons i steady ih =>
    obtain ⟨⟨hrst, hct, hud⟩, hrest⟩ := List.forall_mem_cons.mp hsteady
    have hcur : currentInput s = i := currentInput_of_cons hin
    have hreset : isReset s = false := by rw [isReset, hcur, hrst]
    have hedge : edgeNow r (currentInput s) = false := by simp [edgeNow, modeEdge, hcur, hct, hud]
    obtain ⟨t, q, hstep, hready, hph', hnext⟩ := step_of_ready_next h hph hreset
    have hmode : q.mode = r.mode := (regsNext_mode hnext).trans (modeNext_of_no_edge hedge)
    have hin' : t.inputs = steady ++ later := by rw [step_inputs hstep, hin]; rfl
    rw [← hmode] at hrest
    obtain ⟨hresets, hedges⟩ := ih hready hph' hin' hrest
    obtain ⟨-, hr, -⟩ := h
    rw [List.length_cons, countCycles_succ _ _ s t hstep, countCycles_succ _ _ s t hstep,
      isEdge_of_not_rst hreset hr, hreset, hedge, hresets, hedges]
    exact ⟨rfl, rfl⟩

/-! ### Counting up -/

/-- Under Increment a cycle adds one second, modulo a day, exactly on a threshold tick (40_counter.md R69 to R71). -/
theorem counterNext_secs_of_increment {p : Params} {r : Regs} {i : Input} {c : CounterRegs}
    (hvalid : r.ctr.time.valid = true) (hdir : r.mode.mode.dir = .increment) (h : counterNext p r i = .ok c) :
    c.time.secs = (r.ctr.time.secs + (i.tick && decide (r.ctr.acc = p.nTicks - 1)).toNat) % 86400 := by
  have hsame := Nat.mod_eq_of_lt (secs_lt_of_valid hvalid)
  by_cases htick : i.tick = true
  · by_cases hacc : r.ctr.acc = p.nTicks - 1
    · obtain ⟨hadjust, -⟩ := counterNext_threshold htick hacc h
      rw [hdir] at hadjust
      simpa [htick, hacc] using adjust_inc_secs hvalid hadjust
    · rw [counterNext, if_pos htick, if_neg hacc] at h
      cases h
      simp [hacc, hsame]
  · rw [counterNext, if_neg htick] at h
    cases h
    simp [htick, hsame]

/-- Over any cycles without a reset or an edge, under Increment, the time goes on by the adjustments, modulo a day. -/
theorem run_secs_of_increment {k : Nat} {s t : State} {r q : Regs} (h : Ready s r) (hph : r.disp.ph ≠ .reserved)
    (hdir : r.mode.mode.dir = .increment) (hresets : countCycles isReset k s = 0)
    (hedges : countCycles isEdge k s = 0) (hrun : run k s = .next t) (hq : t.regs = some q) :
    q.ctr.time.secs = (r.ctr.time.secs + countCycles isAdjust k s) % 86400 := by
  induction k generalizing s r with
  | zero =>
    cases hrun
    obtain ⟨-, hr, hlegal⟩ := h
    obtain rfl : r = q := Option.some.inj (hr.symm.trans hq)
    rw [countCycles, Nat.add_zero, Nat.mod_eq_of_lt (secs_lt_of_valid (checkLegal_valid hlegal))]
  | succ k ih =>
    have hrst : isReset s = false := Bool.toNat_eq_zero.mp (Nat.eq_zero_of_add_eq_zero_right hresets)
    obtain ⟨u, v, hstep, hready, hph', hnext⟩ := step_of_ready_next h hph hrst
    obtain ⟨-, hr, hlegal⟩ := h
    rw [countCycles_succ _ k s u hstep] at hresets hedges
    obtain ⟨-, hresets'⟩ := Nat.add_eq_zero_iff.mp hresets
    obtain ⟨hedge, hedges'⟩ := Nat.add_eq_zero_iff.mp hedges
    rw [isEdge_of_not_rst hrst hr, Bool.toNat_eq_zero] at hedge
    have hmode : v.mode = r.mode := (regsNext_mode hnext).trans (modeNext_of_no_edge hedge)
    rw [run_succ, hstep, andThen_next] at hrun
    have hlater := ih hready hph' (by rwa [hmode]) hresets' hedges' hrun
    obtain ⟨c, d, hc, -, rfl⟩ := regsNext_eq_ok.mp hnext
    have hfirst := counterNext_secs_of_increment (checkLegal_valid hlegal) hdir hc
    rw [countCycles_succ _ k s u hstep, isAdjust_of_not_rst hrst hr, hlater, hfirst, Nat.mod_add_mod, Nat.add_assoc]

/-- Settles O46: a reset leaves the levels of its cycle in PCT and PUD, so steady levels make no edge and `run_mode`
keeps RESET_MODE; the default counts up, by one second for each adjustment, which `adjustmentsFallOnEveryNthTick`
counts. -/
theorem steadyLevelsAfterResetKeepTheMode : Obligations.SteadyLevelsAfterResetKeepTheMode := by
  intro s₀ s steady later hrst hstep hin hsteady
  have hready := ready_of_reset_step hrst hstep
  have hph : (resetRegs s₀.params (currentInput s₀)).disp.ph ≠ .reserved := by simp
  obtain ⟨hresets, hedges⟩ := countCycles_of_steady_levels hready hph hin hsteady
  obtain ⟨t, q, hrun, ⟨-, hq, -⟩, -, hkept, -⟩ := run_mode steady.length hready hph hresets
  have hmode : q.mode.mode = s.params.resetMode := by rw [hkept hedges, resetRegs_mode, step_params hstep]
  refine ⟨t, q, hrun, hq, hedges, hmode, fun hdefault => ⟨by rw [hmode, hdefault]; rfl, ?_⟩⟩
  have hdir : (resetRegs s₀.params (currentInput s₀)).mode.mode.dir = .increment := by
    rw [resetRegs_mode, ← step_params hstep, hdefault]
    rfl
  obtain ⟨-, -, -, -, -, hadjusts⟩ := adjustmentsFallOnEveryNthTick s₀ s steady.length hrst hstep hresets
  rw [run_secs_of_increment hready hph hdir hresets hedges hrun hq, hadjusts, resetRegs_ctr, step_params hstep]

end Sys2Proof.Proofs
end

section
/-! Codes that are read back (30_encoding.md section 3, R50): the operations from their decode words, and the times from
their TIME words. -/

namespace Sys2Proof.Proofs

open Sys2Proof.Machine Sys2Proof.Safety Sys2Proof.Laws

/-! ### Decode words -/

/-- Every operation is read back from its word, with the bits that its row's mask ignores. -/
theorem decodeWord_encode (i : Instr) : decodeWord i.format (encode i) = .ok i := by
  cases i with
  | reset | adjustDec | adjustInc | modeSecondsDec | modeSecondsInc | modeHoursDec | modeHoursInc => rfl
  | tickCount b | muxHoldStay b | muxHoldEnd b | muxOffNext b | muxOffWrap b => cases b <;> rfl
  | ctrIdle a b | modeHold a b | muxWrite a b | muxReserved a b => cases a <;> cases b <;> rfl

/-- A word that decodes fits its format, and is read by a row that it selects. -/
theorem row_of_decodeWord {f : Format} {w : Nat} {i : Instr} (h : decodeWord f w = .ok i) :
    w < 2 ^ f.width ∧ ∃ row ∈ operationMap, row.selects f w = true ∧ row.op w = i := by
  unfold decodeWord at h
  split at h
  next hw =>
    split at h
    next row hfind =>
      have hsel := List.find?_some hfind
      exact ⟨hw, row, List.mem_of_find?_eq_some hfind, hsel, Except.ok.inj h⟩
    · cases h
  · cases h

/-- Each row reads the words that it matches as operations of its own format, whose words they are. -/
theorem operationMap_encode : ∀ row ∈ operationMap, ∀ w < 2 ^ row.format.width, w &&& row.mask = row.pattern →
    (row.op w).format = row.format ∧ encode (row.op w) = w := by
  decide

theorem encode_of_decodeWord {f : Format} {w : Nat} {i : Instr} (h : decodeWord f w = .ok i) :
    i.format = f ∧ encode i = w := by
  obtain ⟨hw, row, hrow, hsel, rfl⟩ := row_of_decodeWord h
  obtain ⟨rfl, hmatch⟩ := row_selects_iff.mp hsel
  exact operationMap_encode row hrow w hw hmatch

theorem instr_wellFormed (i : Instr) : i.wellFormed = true := by
  cases i <;> rfl

/-- Settles O1: a word that decodes is the word of what it decodes to, and every operation is read back from its own
word. -/
theorem decodeAndEncodeAgree : Obligations.DecodeAndEncodeAgree := by
  intro f w i
  constructor
  · exact fun h => ⟨instr_wellFormed i, encode_of_decodeWord h⟩
  · rintro ⟨-, rfl, rfl⟩
    exact decodeWord_encode i

/-- Settles O3: each of the seven words is the word of the operation named beside it. -/
theorem writtenOutWordsDecode : Obligations.WrittenOutWordsDecode :=
  ⟨decodeWord_encode .reset, decodeWord_encode (.tickCount true), decodeWord_encode .adjustDec,
    decodeWord_encode (.modeHold false true), decodeWord_encode .modeHoursDec, decodeWord_encode (.muxHoldEnd true),
    decodeWord_encode (.muxOffWrap false)⟩

/-! ### TIME words -/

/-- The six digits are the six hexadecimal digits of the TIME word, none of which is lost (30_encoding.md R50). -/
theorem time_word_toNat (t : Time) :
    t.word.toNat = t.ht.toNat * 2 ^ 20 + t.hu.toNat * 2 ^ 16 + t.mt.toNat * 2 ^ 12 + t.mu.toNat * 2 ^ 8 +
      t.st.toNat * 2 ^ 4 + t.su.toNat := by
  have hht := t.ht.isLt
  have hhu := t.hu.isLt
  have hmt := t.mt.isLt
  have hmu := t.mu.isLt
  have hst := t.st.isLt
  have hsu := t.su.isLt
  rw [Time.word, BitVec.toNat_ofNat]
  exact Nat.mod_eq_of_lt (by omega)

theorem time_eq_iff_toNat {t u : Time} :
    t = u ↔ t.ht.toNat = u.ht.toNat ∧ t.hu.toNat = u.hu.toNat ∧ t.mt.toNat = u.mt.toNat ∧ t.mu.toNat = u.mu.toNat ∧
      t.st.toNat = u.st.toNat ∧ t.su.toNat = u.su.toNat := by
  cases t
  cases u
  simp only [Time.mk.injEq, BitVec.toNat_eq]

theorem time_ofWord_word (t : Time) : Time.ofWord t.word = t := by
  have hword := time_word_toNat t
  simp only [time_eq_iff_toNat, Time.ofWord, BitVec.toNat_ofNat]
  omega

theorem time_word_ofWord (w : BitVec 24) : (Time.ofWord w).word = w := by
  have hw := w.isLt
  apply BitVec.eq_of_toNat_eq
  simp only [time_word_toNat, Time.ofWord, BitVec.toNat_ofNat]
  omega

/-- Settles O7: the TIME word and the digits determine each other. -/
theorem timeWordsReadAsTheTime : Obligations.TimeWordsReadAsTheTime :=
  ⟨time_ofWord_word, time_word_ofWord, rfl⟩

end Sys2Proof.Proofs
end

section
/-! The adjustment in each of its cases (40_counter.md section 3 and R84), by way of the seconds: a valid time is the
only one with its number of seconds (00_scope.md R12), so the time that Adjust gives is named by its seconds alone. -/

namespace Sys2Proof.Proofs

open Sys2Proof.Machine Sys2Proof.Safety Sys2Proof.Laws

/-! ### Valid times and their seconds -/

theorem valid_time_eq_of_secs {t u : Time} (ht : t.valid = true) (hu : u.valid = true) (h : t.secs = u.secs) :
    t = u := by
  obtain ⟨_, _, _, _, _, _, _⟩ := time_valid_iff.mp ht
  obtain ⟨_, _, _, _, _, _, _⟩ := time_valid_iff.mp hu
  unfold Time.secs at h
  rw [time_eq_iff_toNat]
  omega

/-- Below the last second of the day, Adjust upwards gives the valid time of the next second. -/
theorem adjust_inc_eq_of_secs {t u : Time} (ht : t.valid = true) (hu : u.valid = true) (h : u.secs = t.secs + 1) :
    adjust t 1 = .ok u := by
  obtain ⟨t', hadjust⟩ := adjust_ok t 1
  have hvalid := adjust_valid (.inl rfl) ht hadjust
  have hsecs := adjust_inc_secs ht hadjust
  rw [Nat.mod_eq_of_lt (h ▸ secs_lt_of_valid hu), ← h] at hsecs
  rw [hadjust, valid_time_eq_of_secs hvalid hu hsecs]

/-- The time that Adjust gives downwards is the valid one of the second before, and 00:00:00 from itself. -/
theorem adjust_dec_eq_of_secs {t u : Time} (ht : t.valid = true) (hu : u.valid = true)
    (h : u.secs = t.secs - 1) : adjust t (-1) = .ok u := by
  obtain ⟨t', hadjust⟩ := adjust_ok t (-1)
  have hvalid := adjust_valid (.inr rfl) ht hadjust
  have hsecs := adjust_dec_secs ht hadjust
  rw [hadjust, valid_time_eq_of_secs hvalid hu (by omega)]

/-- Counting up from 00:00:00 meets every second of the day. -/
theorem exists_valid_time_of_secs {n : Nat} (hn : n < 86400) : ∃ t : Time, t.valid = true ∧ t.secs = n := by
  induction n with
  | zero => exact ⟨⟨0, 0, 0, 0, 0, 0⟩, rfl, rfl⟩
  | succ n ih =>
    obtain ⟨t, hvalid, rfl⟩ := ih (Nat.lt_of_succ_lt hn)
    obtain ⟨t', hadjust⟩ := adjust_ok t 1
    refine ⟨t', adjust_valid (.inl rfl) hvalid hadjust, ?_⟩
    rw [adjust_inc_secs hvalid hadjust, Nat.mod_eq_of_lt hn]

/-- Settles O19: a valid time is below one day, every second of the day is reached by counting, and no two valid times
share one. -/
theorem validTimesAreTheSecondsOfADay : Obligations.ValidTimesAreTheSecondsOfADay := by
  refine ⟨fun t ht => secs_lt_of_valid ht, fun n hn => ?_⟩
  obtain ⟨t, hvalid, hsecs⟩ := exists_valid_time_of_secs hn
  exact ⟨t, ⟨hvalid, hsecs⟩, fun u hu hn' => valid_time_eq_of_secs hu hvalid (hn'.trans hsecs.symm)⟩

/-- Settles O15: `adjust_ok` holds of any digits and any step. -/
theorem adjustNeverTakesHoursBelowZero : Obligations.AdjustNeverTakesHoursBelowZero :=
  adjust_ok

/-- Settles O16: `adjust_valid`, which passes the digits' bounds up the chain. -/
theorem adjustKeepsTimesValid : Obligations.AdjustKeepsTimesValid :=
  fun _ _ _ hvalid hstep hadjust => adjust_valid hstep hvalid hadjust

/-! ### Digit by digit -/

/-- Settles O17: in each clause the digits named are a valid time of the next second; from 23:59:59 the digits are
computed. -/
theorem incrementCarriesDigitByDigit : Obligations.IncrementCarriesDigitByDigit := by
  intro t ht
  obtain ⟨hhu, hmu, hsu, hmt, hst, hht, h23⟩ := time_valid_iff.mp ht
  refine ⟨fun hsu' => ?_, fun hsu' hst' => ?_, fun hsu' hst' hmu' => ?_, fun hsu' hst' hmu' hmt' => ?_,
    fun hsu' hst' hmu' hmt' => ?_⟩
  · exact adjust_inc_eq_of_secs ht (time_valid_iff.mpr (by bv_omega)) (by unfold Time.secs; bv_omega)
  · exact adjust_inc_eq_of_secs ht (time_valid_iff.mpr (by bv_omega)) (by unfold Time.secs; bv_omega)
  · exact adjust_inc_eq_of_secs ht (time_valid_iff.mpr (by bv_omega)) (by unfold Time.secs; bv_omega)
  · exact adjust_inc_eq_of_secs ht (time_valid_iff.mpr (by bv_omega)) (by unfold Time.secs; bv_omega)
  · split_ifs with hlast hcarry
    · have htime : t = ⟨2, 3, 5, 9, 5, 9⟩ := by cases t; simp_all
      rw [htime]
      rfl
    · exact adjust_inc_eq_of_secs ht (time_valid_iff.mpr (by bv_omega)) (by unfold Time.secs; bv_omega)
    · exact adjust_inc_eq_of_secs ht (time_valid_iff.mpr (by bv_omega)) (by unfold Time.secs; bv_omega)

/-- Settles O18: in each clause the digits named are a valid time of the second before; from 00:00:00 the guard answers
it again. -/
theorem decrementBorrowsDigitByDigit : Obligations.DecrementBorrowsDigitByDigit := by
  intro t ht
  obtain ⟨hhu, hmu, hsu, hmt, hst, hht, h23⟩ := time_valid_iff.mp ht
  refine ⟨fun hsu' => ?_, fun hsu' hst' => ?_, fun hsu' hst' hmu' => ?_, fun hsu' hst' hmu' hmt' => ?_,
    fun hsu' hst' hmu' hmt' => ?_⟩
  · exact adjust_dec_eq_of_secs ht (time_valid_iff.mpr (by bv_omega)) (by unfold Time.secs; bv_omega)
  · exact adjust_dec_eq_of_secs ht (time_valid_iff.mpr (by bv_omega)) (by unfold Time.secs; bv_omega)
  · exact adjust_dec_eq_of_secs ht (time_valid_iff.mpr (by bv_omega)) (by unfold Time.secs; bv_omega)
  · exact adjust_dec_eq_of_secs ht (time_valid_iff.mpr (by bv_omega)) (by unfold Time.secs; bv_omega)
  · split_ifs with hunits htens
    · exact adjust_dec_eq_of_secs ht (time_valid_iff.mpr (by bv_omega)) (by unfold Time.secs; bv_omega)
    · exact adjust_dec_eq_of_secs ht (time_valid_iff.mpr (by bv_omega)) (by unfold Time.secs; bv_omega)
    · have htime : t = ⟨0, 0, 0, 0, 0, 0⟩ := by cases t; simp_all
      exact adjust_of_saturates ((saturates_iff (.inr rfl)).mpr ⟨htime, rfl⟩)

/-! ### The adjustment rows -/

/-- The registers of a ready state are in range (60_exceptions.md R122). -/
theorem ready_inRange {s : State} {r : Regs} (h : Ready s r) :
    r.ctr.time.valid = true ∧ r.ctr.acc < s.params.nTicks ∧ r.disp.cnt < s.params.settle ∧
      ∀ pos : Fin 4, (r.disp.snap.get pos).toNat ≤ 9 := by
  obtain ⟨-, -, hlegal⟩ := h
  exact checkLegal_eq_none.mp hlegal

/-- The write of an adjustment row: the time that Adjust gives, and ACC 0 (40_counter.md R71, R72). -/
theorem applyAdjust_of_ok {s : State} {r : Regs} {step : Int} {t : Time} (h : adjust r.ctr.time step = .ok t) :
    applyAdjust s r step = .next (s.putCounter r { time := t, acc := 0 }) := by
  rw [applyAdjust, h]

/-- Settles O10: behind the checks the row writes what Adjust gives of the valid time in the registers. -/
theorem adjustIncWritesTheNextSecond : Obligations.AdjustIncWritesTheNextSecond := by
  intro s r h
  obtain ⟨t, hadjust⟩ := adjust_ok r.ctr.time 1
  have hrow : exec .adjustInc s = applyAdjust s r 1 := checked_ready h _
  obtain ⟨hvalid, -⟩ := ready_inRange h
  exact ⟨t, adjust_valid (.inl rfl) hvalid hadjust, adjust_inc_secs hvalid hadjust,
    hrow.trans (applyAdjust_of_ok hadjust)⟩

/-- Settles O11: the same downwards. -/
theorem adjustDecWritesThePreviousSecond : Obligations.AdjustDecWritesThePreviousSecond := by
  intro s r h
  obtain ⟨t, hadjust⟩ := adjust_ok r.ctr.time (-1)
  have hrow : exec .adjustDec s = applyAdjust s r (-1) := checked_ready h _
  obtain ⟨hvalid, -⟩ := ready_inRange h
  exact ⟨t, adjust_valid (.inr rfl) hvalid hadjust, adjust_dec_secs hvalid hadjust,
    hrow.trans (applyAdjust_of_ok hadjust)⟩

end Sys2Proof.Proofs
end

section
/-! The widths of the counts (10_state.md R16). -/

namespace Sys2Proof.Proofs

open Sys2Proof.Machine Sys2Proof.Safety Sys2Proof.Laws

theorem le_two_pow_ceilLog2 (n : Nat) : n ≤ 2 ^ ceilLog2 n := by
  unfold ceilLog2
  split
  next h => simpa using h
  · have hlog := Nat.lt_log2_self (n := n - 1)
    omega

/-- One bit less is too few, where there is a bit to take away. -/
theorem two_pow_lt_of_ceilLog2 {n : Nat} (h : 1 ≤ ceilLog2 n) : 2 ^ (ceilLog2 n - 1) < n := by
  unfold ceilLog2 at h ⊢
  split at h
  · omega
  next hn =>
    have hlog := Nat.log2_self_le (n := n - 1) (by omega)
    rw [if_neg hn, Nat.add_sub_cancel]
    omega

/-- A register of max(1, ceil(log2 n)) bits holds the numbers below n, and one bit less does not where it is more than
one bit wide. -/
theorem width_of_count (n : Nat) :
    (∀ a, a < n → a < 2 ^ max 1 (ceilLog2 n)) ∧
      (1 < max 1 (ceilLog2 n) → 2 ^ (max 1 (ceilLog2 n) - 1) < n) := by
  refine ⟨fun a ha => ?_, fun hwide => ?_⟩
  · calc a < n := ha
      _ ≤ 2 ^ ceilLog2 n := le_two_pow_ceilLog2 n
      _ ≤ 2 ^ max 1 (ceilLog2 n) := Nat.pow_le_pow_right two_pos (le_max_right ..)
  · have hmax : max 1 (ceilLog2 n) = ceilLog2 n := by omega
    rw [hmax] at hwide ⊢
    exact two_pow_lt_of_ceilLog2 hwide.le

/-- Settles O21: `width_of_count` of N_TICKS and of S. -/
theorem countsFitTheirWidths : Obligations.CountsFitTheirWidths := by
  intro p _ _
  obtain ⟨hacc, haccWidth⟩ := width_of_count p.nTicks
  obtain ⟨hcnt, hcntWidth⟩ := width_of_count p.settle
  exact ⟨hacc, hcnt, haccWidth, hcntWidth⟩

end Sys2Proof.Proofs
end

section
/-! The refresh period (42_display.md R110): the cycles of a refresh cycle are numbered 0 to P - 1, every cycle without a
reset goes on to the next number and from P - 1 to 0, and P - 1 is the MUX_OFF_WRAP cycle. -/

namespace Sys2Proof.Proofs

open Sys2Proof.Machine Sys2Proof.Safety Sys2Proof.Laws

/-! ### The number of a cycle in its refresh cycle -/

/-- The display registers of cycle k of a refresh cycle, whatever their snapshot. -/
def InRefreshCycle (p : Params) (k : Nat) (d : DisplayRegs) : Prop :=
  d = refreshRegs p.settle d.snap k

theorem inRefreshCycle_not_reserved {p : Params} {k : Nat} {d : DisplayRegs} (h : InRefreshCycle p k d) :
    d.ph ≠ .reserved := by
  rw [h]
  exact refreshRegs_not_reserved _ _ _

theorem servingRegs_with_snap (settle : Nat) (snap snap' : Quad Digit) (pos : Fin 4) (j : Nat) :
    { servingRegs settle snap pos j with snap := snap' } = servingRegs settle snap' pos j := by
  unfold servingRegs
  split
  · rfl
  · split <;> rfl

/-- POS, PH and CNT are a function of the number of the cycle: the snapshot is the only other display register. -/
theorem inRefreshCycle_sequencer {p : Params} {k : Nat} {d e : DisplayRegs} (hd : InRefreshCycle p k d)
    (he : InRefreshCycle p k e) : d.pos = e.pos ∧ d.ph = e.ph ∧ d.cnt = e.cnt := by
  have hsnap : { d with snap := e.snap } = e := by
    calc { d with snap := e.snap } = { refreshRegs p.settle d.snap k with snap := e.snap } := by rw [← hd]
      _ = refreshRegs p.settle e.snap k := servingRegs_with_snap ..
      _ = e := he.symm
  rw [← hsnap]
  exact ⟨rfl, rfl, rfl⟩

/-- A sequencer outside the reserved phase, with CNT in range and 0 outside HOLD, serves its position. -/
theorem exists_servingRegs {settle : Nat} {d : DisplayRegs} (hph : d.ph ≠ .reserved) (hcnt : d.cnt < settle)
    (hzero : d.ph ≠ .hold → d.cnt = 0) : ∃ j < settle + 2, d = servingRegs settle d.snap d.pos j := by
  obtain ⟨pos, ph, cnt, snap⟩ := d
  dsimp only at *
  cases ph with
  | write => exact ⟨0, by omega, by rw [servingRegs_zero, hzero (by simp)]⟩
  | hold => exact ⟨cnt + 1, by omega, by rw [servingRegs_hold _ _ _ hcnt]⟩
  | off => exact ⟨settle + 1, by omega, by rw [servingRegs_off, hzero (by simp)]⟩
  | reserved => exact absurd rfl hph

/-- Cycle j of position a is cycle a*(S+2) + j of the refresh cycle. -/
theorem exists_inRefreshCycle {s : State} {r : Regs} (h : Ready s r) (hph : r.disp.ph ≠ .reserved)
    (hzero : r.disp.ph ≠ .hold → r.disp.cnt = 0) : ∃ k < s.params.period, InRefreshCycle s.params k r.disp := by
  obtain ⟨-, -, hcnt, -⟩ := ready_inRange h
  obtain ⟨j, hj, hd⟩ := exists_servingRegs hph hcnt hzero
  obtain ⟨hdiv, hmod⟩ := (Nat.div_mod_unique (Nat.zero_lt_of_lt hj)).mpr
    ⟨rfl (a := j + (s.params.settle + 2) * r.disp.pos.val), hj⟩
  refine ⟨_, Nat.lt_mul_of_div_lt (hdiv ▸ r.disp.pos.isLt) (Nat.zero_lt_of_lt hj), ?_⟩
  rw [InRefreshCycle, refreshRegs, hdiv, hmod, Fin.ofNat_val_eq_self]
  exact hd

/-! ### The wrap cycle -/

theorem servingRegs_off_iff (settle : Nat) (snap : Quad Digit) (pos : Fin 4) (j : Nat) :
    (servingRegs settle snap pos j).ph = .off ↔ settle < j := by
  unfold servingRegs
  split
  · simp
  next j =>
    split
    next hlt => simp; omega
    next hge => simp; omega

/-- The OFF cycle of position 3 is the last cycle of a refresh cycle, and no other. -/
theorem inRefreshCycle_wrap_iff {p : Params} {k : Nat} {d : DisplayRegs} (h : InRefreshCycle p k d)
    (hk : k < p.period) : d.ph = .off ∧ d.pos = 3 ↔ k + 1 = p.period := by
  unfold Params.period at *
  have hserved : k / (p.settle + 2) < 4 := Nat.div_lt_of_lt_mul (by rwa [Nat.mul_comm])
  have hsplit := Nat.mod_add_div k (p.settle + 2)
  have hj : k % (p.settle + 2) < p.settle + 2 := Nat.mod_lt k (by omega)
  rw [h, refreshRegs, servingRegs_off_iff, servingRegs_pos]
  generalize k / (p.settle + 2) = a, k % (p.settle + 2) = j at *
  have hpos : Fin.ofNat 4 a = 3 ↔ a = 3 := by interval_cases a <;> decide
  rw [hpos]
  interval_cases a <;> omega

theorem isWrap_of_not_rst {s : State} {r : Regs} (hrst : isReset s = false) (hr : s.regs = some r) :
    isWrap s = true ↔ r.disp.ph = .off ∧ r.disp.pos = 3 := by
  unfold isReset at hrst
  simp [isWrap, hr, hrst]

/-- The wrap cycle reloads the snapshot and begins the next refresh cycle (42_display.md R106). -/
theorem displayNext_of_wrap {p : Params} {r : Regs} (h : r.disp.ph = .off ∧ r.disp.pos = 3) :
    displayNext p r = .ok ⟨0, .write, 0, resolve p.posMap r.mode.mode.page r.ctr.time⟩ := by
  obtain ⟨hph, hpos⟩ := h
  simp [displayNext, hph, hpos]

/-! ### One cycle and a run -/

/-- A cycle without a reset goes on to the next number, and from the last one to 0. -/
theorem displayNext_inRefreshCycle {p : Params} {r : Regs} {d : DisplayRegs} {k : Nat} (hsettle : 1 ≤ p.settle)
    (hk : k < p.period) (h : InRefreshCycle p k r.disp) (hd : displayNext p r = .ok d) :
    InRefreshCycle p ((k + 1) % p.period) d := by
  obtain hlast | hmore : k + 1 = p.period ∨ k + 1 < p.period := by omega
  · rw [displayNext_of_wrap ((inRefreshCycle_wrap_iff h hk).mpr hlast)] at hd
    cases hd
    rw [hlast, Nat.mod_self]
    exact refreshRegs_start p.settle rfl rfl rfl
  · rw [displayNext_refreshRegs hsettle hmore h] at hd
    cases hd
    rw [Nat.mod_eq_of_lt hmore, InRefreshCycle, refreshRegs_snap]

/-- The first of some cycles without a reset answers next with its next registers, and the others have no reset. -/
theorem firstCycle_regsNext {m : Nat} {s : State} {r : Regs} (h : Ready s r) (hph : r.disp.ph ≠ .reserved)
    (hm : countCycles isReset (m + 1) s = 0) :
    isReset s = false ∧ ∃ (t : State) (q : Regs), step s = .next t ∧ Ready t q ∧ q.disp.ph ≠ .reserved ∧
      regsNext s.params r (currentInput s) = .ok q ∧ countCycles isReset m t = 0 := by
  obtain ⟨hrst, t, -, hstep, -, -, -, hm'⟩ := firstCycle_of_no_reset h hph hm
  obtain ⟨t', q, hstep', hready, hph', hnext⟩ := step_of_ready_next h hph hrst
  obtain rfl : t' = t := by simpa [hstep'] using hstep
  exact ⟨hrst, t', q, hstep', hready, hph', hnext, hm'⟩

/-- From cycle k of a refresh cycle, m cycles without a reset lead to cycle k + m modulo P, with one wrap for every time
that the number passes P. -/
theorem run_inRefreshCycle {s : State} {r : Regs} {k : Nat} (m : Nat) (h : Ready s r) (hk : k < s.params.period)
    (hd : InRefreshCycle s.params k r.disp) (hm : countCycles isReset m s = 0) :
    ∃ (t : State) (q : Regs), run m s = .next t ∧ Ready t q ∧
      InRefreshCycle s.params ((k + m) % s.params.period) q.disp ∧
      countCycles isWrap m s = (k + m) / s.params.period := by
  induction m generalizing s r k with
  | zero => exact ⟨s, r, rfl, h, by rwa [Nat.add_zero, Nat.mod_eq_of_lt hk], (Nat.div_eq_of_lt hk).symm⟩
  | succ m ih =>
    obtain ⟨hrst, u, v, hstep, hready, -, hnext, hm'⟩ := firstCycle_regsNext h (inRefreshCycle_not_reserved hd) hm
    obtain ⟨hw, hr, -⟩ := h
    have hpos : 0 < s.params.period := Nat.zero_lt_of_lt hk
    have hv := displayNext_inRefreshCycle (wellFormed_settle hw) hk hd (regsNext_disp hnext)
    have hwrap := (isWrap_of_not_rst hrst hr).trans (inRefreshCycle_wrap_iff hd hk)
    rw [← step_params hstep] at hv hk hpos hwrap ⊢
    obtain ⟨t, q, hrun, hready', hq, hcount⟩ := ih hready (Nat.mod_lt _ hpos) hv hm'
    rw [Nat.mod_add_mod, Nat.add_right_comm] at hq
    refine ⟨t, q, by rw [run_succ, hstep, andThen_next, hrun], hready', hq, ?_⟩
    rw [countCycles_succ _ m s u hstep, hcount, ← Nat.add_assoc, Nat.add_right_comm]
    obtain hlast | hmore : k + 1 = u.params.period ∨ k + 1 < u.params.period := by omega
    · rw [hwrap.mpr hlast, hlast, Nat.mod_self, Nat.add_div_left _ hpos]
      simp [Nat.add_comm]
    · rw [Bool.eq_false_iff.mpr (mt hwrap.mp hmore.ne), Nat.mod_eq_of_lt hmore]
      simp

theorem countCycles_mono (P : State → Bool) {a b : Nat} (h : a ≤ b) (s : State) :
    countCycles P a s ≤ countCycles P b s := by
  induction a generalizing b s with
  | zero => exact Nat.zero_le _
  | succ a ih =>
    obtain ⟨b, rfl⟩ : ∃ m, b = m + 1 := ⟨b - 1, by omega⟩
    simp only [countCycles]
    cases step s with
    | next t => exact Nat.add_le_add_left (ih (Nat.le_of_succ_le_succ h) t) _
    | fault f => exact le_rfl
    | refused x => exact le_rfl

/-- Settles O38: a period later the number of the cycle is the same, and it has passed P once. -/
theorem sequencerReturnsAfterOnePeriod : Obligations.SequencerReturnsAfterOnePeriod := by
  intro s r h hph hzero hn
  obtain ⟨k, hk, hd⟩ := exists_inRefreshCycle h hph hzero
  obtain ⟨t, q, hrun, ⟨-, hq, -⟩, hd', hwraps⟩ := run_inRefreshCycle s.params.period h hk hd hn
  rw [Nat.add_mod_right, Nat.mod_eq_of_lt hk] at hd'
  rw [Nat.add_div_right _ (Nat.zero_lt_of_lt hk), Nat.div_eq_of_lt hk] at hwraps
  obtain ⟨hpos, hph', hcnt'⟩ := inRefreshCycle_sequencer hd' hd
  exact ⟨t, q, hrun, hq, hpos, hph', hcnt', hwraps⟩

/-- Settles O39: from cycle k the wrap cycle P - 1 is reached after P - 1 - k cycles, and its edge loads the snapshot. -/
theorem snapshotReloadsWithinOnePeriod : Obligations.SnapshotReloadsWithinOnePeriod := by
  intro s r h hph hzero hn
  obtain ⟨k, hk, hd⟩ := exists_inRefreshCycle h hph hzero
  obtain ⟨j, hj⟩ : ∃ j, s.params.period = j + (k + 1) := ⟨s.params.period - (k + 1), by omega⟩
  have hbefore : countCycles isReset j s = 0 := Nat.eq_zero_of_le_zero (hn ▸ countCycles_mono isReset (by omega) s)
  obtain ⟨t, q, hrun, hready, hlast, -⟩ := run_inRefreshCycle j h hk hd hbefore
  rw [Nat.mod_eq_of_lt (by omega)] at hlast
  have hwrap := (inRefreshCycle_wrap_iff hlast (by omega)).mpr (by omega)
  rw [hj, countCycles_add hrun] at hn
  obtain ⟨hrst, u, v, hstep, ⟨-, hv, -⟩, -, hnext, -⟩ :=
    firstCycle_regsNext hready (inRefreshCycle_not_reserved hlast) (Nat.add_eq_zero_iff.mp hn).2
  have hload := regsNext_disp hnext
  rw [displayNext_of_wrap hwrap, run_params hrun, Except.ok.injEq] at hload
  obtain ⟨-, hqt, -⟩ := hready
  refine ⟨j, t, u, q, v, outputsOf v, by omega, hrun, hqt, (isWrap_of_not_rst hrst hqt).mpr hwrap, ?_, hv, ?_, ?_,
    outputs_of_regs hv, ?_⟩
  · rw [run_add, hrun, andThen_next, run_succ, hstep]
    rfl
  · rw [← hload]
  · rw [← hload]
  · rw [outputsOf, ← hload]
    rfl

end Sys2Proof.Proofs
end

section
/-! Safe states and consistent snapshots, one step at a time (10_state.md section 2 to 4, 20_memory.md R43): the steps
of the invariants `RegsSafe` and `SnapOfOneTime`, and the state after reset as the values of a reset; and the values
that SEL and DIGIT can have (30_encoding.md R52, R53). -/

namespace Sys2Proof.Proofs

open Sys2Proof.Machine Sys2Proof.Safety Sys2Proof.Laws

/-- Settles O52: `RegsSafe` is kept by every cycle, and the configuration does not change. -/
theorem stepKeepsStatesSafe : Obligations.StepKeepsStatesSafe := by
  intro s t hs hstep
  obtain ⟨hw, hsafe⟩ := stateSafe_iff.mp hs
  exact stateSafe_iff.mpr ⟨step_params hstep ▸ hw, step_keeps_regsInvariant regsSafe_regsInvariant hsafe hstep⟩

/-- Settles O54: a step keeps `SnapOfOneTime` together with `RegsSafe`, which gives the validity of the digits that a
wrap cycle loads. -/
theorem stepKeepsSnapshotsConsistent : Obligations.StepKeepsSnapshotsConsistent := by
  intro s t hs hsnap hstep
  obtain ⟨-, hsafe⟩ := stateSafe_iff.mp hs
  have hboth := step_keeps_regsInvariant snapOfOneTime_regsInvariant (fun r hr => ⟨hsafe r hr, hsnap r hr⟩) hstep
  exact fun q hq => (hboth q hq).2

theorem reset_regs : State.reset.regs = some (resetRegs Config.defaultParams (Input.ofVec 0x9)) := rfl

theorem defaultParams_wellFormed : Config.defaultParams.wellFormed = true := by decide

/-- Settles O53: the registers of `State.reset` are reset values, of which both invariants hold. -/
theorem resetStateIsSafe : Obligations.ResetStateIsSafe := by
  have hboth := snapOfOneTime_regsInvariant.reset Config.defaultParams (Input.ofVec 0x9) defaultParams_wellFormed
  obtain ⟨hsafe, hsnap⟩ := hboth
  refine ⟨⟨defaultParams_wellFormed, fun r hr => ?_⟩, fun r hr => ?_⟩
  · cases reset_regs.symm.trans hr
    exact hsafe
  · cases reset_regs.symm.trans hr
    exact hsnap

/-- Settles O47: the step of a reset cycle, computed. -/
theorem stateResetIsOneResetCycle : Obligations.StateResetIsOneResetCycle :=
  step_of_reset defaultParams_wellFormed rfl

/-! ### The outputs -/

theorem onehot4_patterns : ∀ pos : Fin 4,
    onehot4 pos = 0b0001 ∨ onehot4 pos = 0b0010 ∨ onehot4 pos = 0b0100 ∨ onehot4 pos = 0b1000 := by
  decide

theorem onehot4_ne_zero : ∀ pos : Fin 4, onehot4 pos ≠ 0b0000 := by
  decide

theorem outputsOf_sel_hold {r : Regs} (h : r.disp.ph = .hold) : (outputsOf r).sel = onehot4 r.disp.pos :=
  if_pos h

theorem outputsOf_sel_blank {r : Regs} (h : r.disp.ph ≠ .hold) : (outputsOf r).sel = 0b0000 :=
  if_neg h

/-- Settles O36: HOLD enables the bit of POS, and every other phase none. -/
theorem selIsBlankOrOneHot : Obligations.SelIsBlankOrOneHot := by
  intro s r hr
  refine ⟨outputsOf r, outputs_of_regs hr, ?_⟩
  by_cases hph : r.disp.ph = .hold
  · rw [outputsOf_sel_hold hph]
    exact ⟨.inr (onehot4_patterns _), fun _ => onehot4_ne_zero _⟩
  · rw [outputsOf_sel_blank hph]
    exact ⟨.inl rfl, fun hhold => absurd hhold hph⟩

/-- Settles O42: DIGIT is an entry of the snapshot, and those of a safe state are decimal digits. -/
theorem digitPortCarriesADecimalDigit : Obligations.DigitPortCarriesADecimalDigit := by
  rintro s o ⟨-, hsafe⟩ ho
  cases hr : s.regs with
  | none => simp [outputs_noValue hr] at ho
  | some r =>
    obtain ⟨-, -, -, hsnap, -⟩ := hsafe r hr
    rw [outputs_of_regs hr] at ho
    cases ho
    exact hsnap r.disp.pos

end Sys2Proof.Proofs
end

section
/-! What one cycle without a reset does to the mode, the snapshot and the outputs (41_mode.md R88, R97, R98,
20_memory.md R43, 42_display.md R109). -/

namespace Sys2Proof.Proofs

open Sys2Proof.Machine Sys2Proof.Safety Sys2Proof.Laws

/-! ### The mode -/

/-- Settles O28: the mode of the next registers is `modeNext`, which an edge alone rewrites. -/
theorem onlyEdgesRewriteTheMode : Obligations.OnlyEdgesRewriteTheMode := by
  intro s r h hph hrst
  obtain ⟨t, q, hstep, ⟨-, hq, -⟩, -, hnext⟩ := step_of_ready_next h hph hrst
  obtain ⟨-, hr, -⟩ := h
  refine ⟨t, q, hstep, hq, ?_, outputsOf q, outputs_of_regs hq, rfl⟩
  rw [regsNext_mode hnext, isEdge_of_not_rst hrst hr]
  rfl

/-- Settles O30: the first cycle samples the changed levels, so that restoring them is a change in the second. -/
theorem oneCyclePulseMakesTwoEdges : Obligations.OneCyclePulseMakesTwoEdges := by
  intro s r i₁ i₂ later h hph hin hrst₁ hrst₂ hchange hct hud
  have hcur : currentInput s = i₁ := currentInput_of_cons hin
  have hrst : isReset s = false := by rw [isReset, hcur, hrst₁]
  obtain ⟨t, q, hstep, hready, hph', hnext⟩ := step_of_ready_next h hph hrst
  have hcur' : currentInput t = i₂ := currentInput_of_cons (by rw [step_inputs hstep, hin]; rfl)
  have hrst' : isReset t = false := by rw [isReset, hcur', hrst₂]
  obtain ⟨u, v, hstep', ⟨-, hv, -⟩, -, hnext'⟩ := step_of_ready_next hready hph' hrst'
  obtain ⟨-, hr, -⟩ := h
  obtain ⟨-, hq, -⟩ := hready
  have hedge : edgeNow r i₁ = true := edgeNow_iff.mpr hchange
  have hmode := regsNext_mode hnext
  rw [hcur, modeNext_of_edge hedge] at hmode
  have hedge' : edgeNow q i₂ = true := by
    rw [edgeNow_iff, hmode, hct, hud]
    exact hchange.imp Ne.symm Ne.symm
  refine ⟨t, u, q, v, hstep, hstep', hq, hv, ?_, ?_, by rw [hmode], ?_⟩
  · rw [isEdge_of_not_rst hrst hr, hcur, hedge]
  · rw [isEdge_of_not_rst hrst' hq, hcur', hedge']
  · rw [regsNext_mode hnext', hcur', modeNext_of_edge hedge', hct, hud]

/-! ### The snapshot and the outputs -/

/-- In every cycle but the wrap the display row keeps the snapshot. -/
theorem displayNext_snap_of_not_wrap {p : Params} {r : Regs} {d : DisplayRegs}
    (h : ¬ (r.disp.ph = .off ∧ r.disp.pos = 3)) (hd : displayNext p r = .ok d) : d.snap = r.disp.snap := by
  unfold displayNext at hd
  split at hd
  · cases hd; rfl
  · split at hd <;> cases hd <;> rfl
  next hph =>
    split at hd
    next hpos => exact absurd ⟨hph, hpos⟩ h
    · cases hd; rfl
  · cases hd

/-- Settles O40: the wrap cycle loads the snapshot, and no other cycle writes it. -/
theorem snapshotLoadsOnlyAtTheWrap : Obligations.SnapshotLoadsOnlyAtTheWrap := by
  intro s r h hph hrst
  obtain ⟨t, q, hstep, ⟨-, hq, -⟩, -, hnext⟩ := step_of_ready_next h hph hrst
  obtain ⟨-, hr, -⟩ := h
  have hd := regsNext_disp hnext
  refine ⟨t, q, hstep, hq, ?_⟩
  split
  next hwrap =>
    rw [displayNext_of_wrap ((isWrap_of_not_rst hrst hr).mp hwrap)] at hd
    rw [← Except.ok.inj hd]
  next hwrap => exact displayNext_snap_of_not_wrap (mt (isWrap_of_not_rst hrst hr).mpr hwrap) hd

/-- A display row keeps the entry that is shown, or goes from one blank phase to another (42_display.md R102 to R106). -/
theorem displayNext_keeps_digit_or_blank {p : Params} {r : Regs} {d : DisplayRegs} (h : displayNext p r = .ok d) :
    (d.pos = r.disp.pos ∧ d.snap = r.disp.snap) ∨ (r.disp.ph ≠ .hold ∧ d.ph ≠ .hold) := by
  unfold displayNext at h
  split at h
  · cases h; exact .inl ⟨rfl, rfl⟩
  · split at h <;> cases h <;> exact .inl ⟨rfl, rfl⟩
  next hph => split at h <;> cases h <;> exact .inr ⟨by simp [hph], by simp⟩
  · cases h

/-- Settles O37: where the entry that is shown can change, both phases are blank. -/
theorem digitChangesOnlyWhileBlank : Obligations.DigitChangesOnlyWhileBlank := by
  intro s r h hph hrst
  obtain ⟨t, q, hstep, ⟨-, hq, -⟩, -, hnext⟩ := step_of_ready_next h hph hrst
  obtain ⟨-, hr, -⟩ := h
  refine ⟨t, outputsOf r, outputsOf q, hstep, outputs_of_regs hr, outputs_of_regs hq, ?_⟩
  obtain ⟨hpos, hsnap⟩ | ⟨hblank, hblank'⟩ := displayNext_keeps_digit_or_blank (regsNext_disp hnext)
  · have hdigit : (outputsOf r).digit = (outputsOf q).digit := by simp only [outputsOf, hpos, hsnap]
    exact ⟨fun hne => absurd hdigit hne, fun _ => hdigit⟩
  · rw [outputsOf_sel_blank hblank, outputsOf_sel_blank hblank']
    exact ⟨fun _ => ⟨rfl, rfl⟩, fun hne => absurd rfl hne⟩

end Sys2Proof.Proofs
end

section
/-! Ticks as seconds (40_counter.md section 4): each adjustment of a run moves the time by one second in the direction of
DIR, which cycles without a mode edge keep. -/

namespace Sys2Proof.Proofs

open Sys2Proof.Machine Sys2Proof.Safety Sys2Proof.Laws

/-- The seconds after n adjustments: upwards modulo one day, downwards down to 0 (40_counter.md R80, R81). -/
def secsAfter : Direction → Nat → Nat → Nat
  | .increment, secs, n => (secs + n) % 86400
  | .decrement, secs, n => secs - n

theorem secsAfter_zero (dir : Direction) {t : Time} (h : t.valid = true) : secsAfter dir t.secs 0 = t.secs := by
  cases dir with
  | increment => rw [secsAfter, Nat.add_zero, Nat.mod_eq_of_lt (secs_lt_of_valid h)]
  | decrement => rfl

theorem secsAfter_add (dir : Direction) (secs m n : Nat) :
    secsAfter dir (secsAfter dir secs m) n = secsAfter dir secs (m + n) := by
  cases dir with
  | increment => simp only [secsAfter, Nat.mod_add_mod, Nat.add_assoc]
  | decrement => exact Nat.sub_sub ..

theorem adjust_secs {dir : Direction} {t t' : Time} (hvalid : t.valid = true)
    (hadjust : adjust t (stepSign dir) = .ok t') : t'.secs = secsAfter dir t.secs 1 := by
  cases dir with
  | increment => rw [secsAfter, adjust_inc_secs hvalid hadjust]
  | decrement =>
    have hsecs := adjust_dec_secs hvalid hadjust
    rw [secsAfter]
    omega

/-- A cycle makes one adjustment on a threshold tick, and none otherwise (40_counter.md R69 to R72). -/
theorem counterNext_secs {p : Params} {r : Regs} {i : Input} {c : CounterRegs} (hvalid : r.ctr.time.valid = true)
    (h : counterNext p r i = .ok c) :
    c.time.secs = secsAfter r.mode.mode.dir r.ctr.time.secs (i.tick && decide (r.ctr.acc = p.nTicks - 1)).toNat := by
  by_cases hadj : i.tick = true ∧ r.ctr.acc = p.nTicks - 1
  · obtain ⟨htick, hacc⟩ := hadj
    obtain ⟨hadjust, -⟩ := counterNext_threshold htick hacc h
    simpa [htick, hacc] using adjust_secs hvalid hadjust
  · have hsame : c.time = r.ctr.time := by
      unfold counterNext at h
      split_ifs at h with htick hacc
      · exact absurd ⟨htick, hacc⟩ hadj
      · cases h; rfl
      · cases h; rfl
    have hnone : (i.tick && decide (r.ctr.acc = p.nTicks - 1)) = false := by simpa using hadj
    rw [hsame, hnone, Bool.toNat_false, secsAfter_zero _ hvalid]

/-- Over any cycles without a reset or an edge the time moves by the adjustments counted, in the direction of DIR. -/
theorem run_secs {k : Nat} {s t : State} {r q : Regs} (h : Ready s r) (hph : r.disp.ph ≠ .reserved)
    (hresets : countCycles isReset k s = 0) (hedges : countCycles isEdge k s = 0) (hrun : run k s = .next t)
    (hq : t.regs = some q) :
    q.ctr.time.secs = secsAfter r.mode.mode.dir r.ctr.time.secs (countCycles isAdjust k s) := by
  induction k generalizing s r with
  | zero =>
    cases hrun
    obtain ⟨-, hr, hlegal⟩ := h
    obtain rfl : r = q := Option.some.inj (hr.symm.trans hq)
    rw [countCycles, secsAfter_zero _ (checkLegal_valid hlegal)]
  | succ k ih =>
    obtain ⟨hrst, u, v, hstep, hready, hph', hnext, hresets'⟩ := firstCycle_regsNext h hph hresets
    obtain ⟨-, hr, hlegal⟩ := h
    rw [countCycles_succ _ k s u hstep, isEdge_of_not_rst hrst hr] at hedges
    obtain ⟨hedge, hedges'⟩ := Nat.add_eq_zero_iff.mp hedges
    have hmode : v.mode = r.mode := (regsNext_mode hnext).trans (modeNext_of_no_edge (Bool.toNat_eq_zero.mp hedge))
    rw [run_succ, hstep, andThen_next] at hrun
    have hlater := ih hready hph' hresets' hedges' hrun
    obtain ⟨c, d, hc, -, rfl⟩ := regsNext_eq_ok.mp hnext
    rw [countCycles_succ _ k s u hstep, isAdjust_of_not_rst hrst hr, hlater, hmode,
      counterNext_secs (checkLegal_valid hlegal) hc, secsAfter_add]

/-- The adjustments over any cycles without a reset: one for every N_TICKS ticks, those in ACC counted with them. -/
theorem run_counts_adjustments {s : State} {r : Regs} (k : Nat) (h : Ready s r) (hph : r.disp.ph ≠ .reserved)
    (hk : countCycles isReset k s = 0) :
    ∃ (t : State) (q : Regs), run k s = .next t ∧ Ready t q ∧
      q.ctr.acc = (r.ctr.acc + countCycles isTick k s) % s.params.nTicks ∧
      countCycles isAdjust k s = (r.ctr.acc + countCycles isTick k s) / s.params.nTicks := by
  obtain ⟨t, q, hrun, hready, -, hcount⟩ := run_counts_ticks k h hph hk
  obtain ⟨-, hacc, -, -⟩ := ready_inRange hready
  rw [run_params hrun] at hacc
  obtain ⟨hdiv, hmod⟩ := (Nat.div_mod_unique (Nat.zero_lt_of_lt hacc)).mpr ⟨hcount, hacc⟩
  exact ⟨t, q, hrun, hready, hmod.symm, hdiv.symm⟩

/-- Settles O23: `run_secs` moves the time by the adjustments, which `run_counts_adjustments` counts. -/
theorem ticksBecomeSeconds : Obligations.TicksBecomeSeconds := by
  intro s r k h hph hresets hedges
  obtain ⟨t, q, hrun, ⟨-, hq, hlegal⟩, -, hadjusts⟩ := run_counts_adjustments k h hph hresets
  have hsecs := run_secs h hph hresets hedges hrun hq
  rw [hadjusts] at hsecs
  refine ⟨t, q, hrun, hq, checkLegal_valid hlegal, fun hdir => ?_, fun hdir => ?_⟩
  · rw [hsecs, hdir, secsAfter]
  · rw [hsecs, hdir, secsAfter]

/-! ### The pseudo-operation `second` -/

theorem run_inputs {k : Nat} {s t : State} (h : run k s = .next t) : t.inputs = s.inputs.drop k := by
  induction k generalizing s with
  | zero =>
    cases h
    rfl
  | succ k ih =>
    obtain ⟨u, hstep, hrun⟩ := andThen_eq_next.mp h
    rw [ih hrun, step_inputs hstep, List.drop_tail]

/-- Placed ticks without a reset are all counted. -/
theorem countTicks_of_replicate {k : Nat} {i : Input} {later : List Input} {s : State} {r : Regs} (h : Ready s r)
    (hph : r.disp.ph ≠ .reserved) (hrst : i.rst = false) (htick : i.tick = true)
    (hin : s.inputs = List.replicate k i ++ later) : countCycles isTick k s = k := by
  induction k generalizing s r with
  | zero => rfl
  | succ k ih =>
    have hcur : currentInput s = i := currentInput_of_cons hin
    have hreset : isReset s = false := by rw [isReset, hcur, hrst]
    obtain ⟨t, q, hstep, hready, hph', -⟩ := step_of_ready_next h hph hreset
    have hin' : t.inputs = List.replicate k i ++ later := by rw [step_inputs hstep, hin]; rfl
    rw [countCycles_succ _ k s t hstep, ih hready hph' hin', isTick_of_not_rst hreset, hcur, htick, Bool.toNat_true,
      Nat.add_comm]

theorem run_keeps_mode {k : Nat} {s t : State} {r q : Regs} (h : Ready s r) (hph : r.disp.ph ≠ .reserved)
    (hresets : countCycles isReset k s = 0) (hedges : countCycles isEdge k s = 0) (hrun : run k s = .next t)
    (hq : t.regs = some q) : q.mode = r.mode := by
  obtain ⟨t', q', hrun', ⟨-, hq', -⟩, -, hkept, -⟩ := run_mode k h hph hresets
  obtain rfl : t' = t := by simpa [hrun'] using hrun
  obtain rfl : q' = q := by simpa [hq'] using hq
  exact hkept hedges

/-- Settles O24: the N_TICKS placed cycles all tick and have no edge, so they make one adjustment and bring ACC back. -/
theorem secondAddsOneSecond : Obligations.SecondAddsOneSecond := by
  intro s r later h hph hdir hin
  have hin' : s.inputs = List.replicate s.params.nTicks (ScriptOp.tick.input r.mode.pct r.mode.pud) ++ later := by
    simpa [ScriptLine.inputs] using hin
  obtain ⟨hresets, hedges⟩ := countCycles_of_steady_levels h hph hin' fun i hi => by
    rw [List.eq_of_mem_replicate hi]
    exact ⟨rfl, rfl, rfl⟩
  rw [List.length_replicate] at hresets hedges
  obtain ⟨-, hacc, -, -⟩ := ready_inRange h
  have hticks := countTicks_of_replicate h hph rfl rfl hin'
  obtain ⟨t, q, hrun, ⟨-, hq, -⟩, hacc', hadjusts⟩ := run_counts_adjustments _ h hph hresets
  rw [hticks, Nat.add_mod_right, Nat.mod_eq_of_lt hacc] at hacc'
  rw [hticks, Nat.add_div_right _ (Nat.zero_lt_of_lt hacc), Nat.div_eq_of_lt hacc] at hadjusts
  have hsecs := run_secs h hph hresets hedges hrun hq
  rw [hadjusts, hdir, secsAfter] at hsecs
  refine ⟨t, q, hrun, hq, ?_, hacc', hsecs, run_keeps_mode h hph hresets hedges hrun hq⟩
  rw [run_inputs hrun, hin', List.drop_left' List.length_replicate]

end Sys2Proof.Proofs
end

section
/-! The rows one at a time (40_counter.md section 2, 41_mode.md section 2, 42_display.md section 2): what each writes in
a ready state, where the checks pass, and the registers that it leaves as they are (43_cycle.md section 1). -/

namespace Sys2Proof.Proofs

open Sys2Proof.Machine Sys2Proof.Safety Sys2Proof.Laws

/-! ### The writes of a row in a ready state -/

/-- Settles O8: behind the checks the row answers its own state. -/
theorem ctrIdleWritesNothing : Obligations.CtrIdleWritesNothing :=
  fun _ _ _ _ h => checked_ready h _

/-- Settles O9: behind the checks the row writes ACC, which is in range. -/
theorem tickCountCountsOneTick : Obligations.TickCountCountsOneTick := by
  intro s r dir h
  obtain ⟨-, hacc, -⟩ := ready_inRange h
  exact ⟨checked_ready h _, fun hlast => by omega⟩

/-- Settles O25: behind the checks the row writes the two levels. -/
theorem modeHoldKeepsTheMode : Obligations.ModeHoldKeepsTheMode :=
  fun _ _ _ _ h => checked_ready h _

/-- An edge row writes the decision table's row of its levels (41_mode.md R88). -/
theorem applyEdge_ready {s : State} {r : Regs} (h : Ready s r) (ct ud : Bool) :
    applyEdge ct ud s = .next (s.putMode r { mode := decisionRow ct ud, pct := ct, pud := ud }) :=
  checked_ready h _

/-- Settles O26: `applyEdge_ready` at each of the four pairs of levels. -/
theorem edgeRowsWriteTheDecisionTable : Obligations.EdgeRowsWriteTheDecisionTable :=
  fun _ _ h => ⟨applyEdge_ready h true true, applyEdge_ready h true false, applyEdge_ready h false true,
    applyEdge_ready h false false⟩

/-- Settles O31: behind the checks each row writes PH and CNT. -/
theorem holdRowsMoveTheSequencer : Obligations.HoldRowsMoveTheSequencer :=
  fun _ _ _ _ h => ⟨checked_ready h _, checked_ready h _, checked_ready h _⟩

theorem position_add_one_val {pos : Fin 4} (h : pos ≠ 3) : (pos + 1).val = pos.val + 1 := by
  revert pos
  decide

/-- Settles O32: behind the checks each row writes the sequencer; POS + 1 does not wrap before position 3. -/
theorem offRowsMoveToTheNextPosition : Obligations.OffRowsMoveToTheNextPosition :=
  fun _ r _ h => ⟨⟨r.disp.pos + 1, position_add_one_val, checked_ready h _⟩, checked_ready h _⟩

/-! ### What a row leaves as it is -/

/-- The state t is s with other registers of one family, and everything else as it was. -/
def WritesOnly (f : Format) (s t : State) : Prop :=
  t.params = s.params ∧ t.inputs = s.inputs ∧ t.cycle = s.cycle ∧
    ∃ r q, s.regs = some r ∧ t.regs = some q ∧
      (f ≠ .ctr → q.ctr = r.ctr) ∧ (f ≠ .mode → q.mode = r.mode) ∧ (f ≠ .mux → q.disp = r.disp)

section
variable {s : State} {r : Regs} (hr : s.regs = some r)
include hr

theorem writesOnly_refl (f : Format) : WritesOnly f s s :=
  ⟨rfl, rfl, rfl, r, r, hr, hr, fun _ => rfl, fun _ => rfl, fun _ => rfl⟩

theorem writesOnly_putCounter (c : CounterRegs) : WritesOnly .ctr s (s.putCounter r c) :=
  ⟨rfl, rfl, rfl, r, _, hr, rfl, fun h => absurd rfl h, fun _ => rfl, fun _ => rfl⟩

theorem writesOnly_putMode (m : ModeRegs) : WritesOnly .mode s (s.putMode r m) :=
  ⟨rfl, rfl, rfl, r, _, hr, rfl, fun _ => rfl, fun h => absurd rfl h, fun _ => rfl⟩

theorem writesOnly_putDisplay (d : DisplayRegs) : WritesOnly .mux s (s.putDisplay r d) :=
  ⟨rfl, rfl, rfl, r, _, hr, rfl, fun _ => rfl, fun _ => rfl, fun h => absurd rfl h⟩

end

/-- Every row but RESET writes its own family's registers only (43_cycle.md section 1). -/
theorem exec_writesOnly {i : Instr} {s t : State} (hi : i ≠ .reset) (h : exec i s = .next t) :
    WritesOnly i.format s t := by
  cases i with
  | reset => exact absurd rfl hi
  | ctrIdle =>
    obtain ⟨r, hr, rfl⟩ := checked_next_eq_next h
    exact writesOnly_refl hr _
  | adjustDec | adjustInc =>
    obtain ⟨r, c, hr, rfl⟩ := checked_applyAdjust_eq_next h
    exact writesOnly_putCounter hr c
  | tickCount =>
    obtain ⟨r, hr, rfl⟩ := checked_next_eq_next h
    exact writesOnly_putCounter hr _
  | modeHold | modeSecondsDec | modeSecondsInc | modeHoursDec | modeHoursInc =>
    obtain ⟨r, hr, rfl⟩ := checked_next_eq_next h
    exact writesOnly_putMode hr _
  | muxWrite | muxHoldStay | muxHoldEnd | muxOffNext | muxOffWrap =>
    obtain ⟨r, hr, rfl⟩ := checked_next_eq_next h
    exact writesOnly_putDisplay hr _
  | muxReserved => exact absurd h (exec_muxReserved_ne_next s t _ _)

/-- RESET answers next with new registers in the same state (70_reset_and_hazards.md R139). -/
theorem exec_reset_eq_next_state {s t : State} (h : exec .reset s = .next t) :
    t = { s with regs := some (resetRegs s.params (currentInput s)) } := by
  cases hw : s.params.wellFormed with
  | true =>
    rw [exec_reset_of_wellFormed hw] at h
    exact (Host.Outcome.next.inj h).symm
  | false => simp [exec_eq_refused.mpr ⟨hw, rfl⟩] at h

/-- Settles O34: RESET keeps all but the registers, and the other rows write their own family's. -/
theorem familiesWriteOnlyTheirOwnRegisters : Obligations.FamiliesWriteOnlyTheirOwnRegisters := by
  intro s t i h
  by_cases hi : i = .reset
  · subst hi
    rw [exec_reset_eq_next_state h]
    exact ⟨rfl, rfl, rfl, fun hne => absurd rfl hne⟩
  · obtain ⟨hparams, hinputs, hcycle, hregs⟩ := exec_writesOnly hi h
    exact ⟨hparams, hinputs, hcycle, fun _ => hregs⟩

end Sys2Proof.Proofs
end

section
/-! The step made of its rows (43_cycle.md section 1): RESET alone in a reset cycle, held or not, and without one the
three selected rows, concurrently or one after another. -/

namespace Sys2Proof.Proofs

open Sys2Proof.Machine Sys2Proof.Safety Sys2Proof.Laws

/-! ### Reset cycles -/

/-- Settles O51: the edge of a step with registers put into the state of the cycle. -/
theorem stepKeepsTheParameters : Obligations.StepKeepsTheParameters := by
  intro s t h
  obtain ⟨-, q, rfl, -⟩ := step_next_cases h
  exact ⟨rfl, rfl, rfl, Option.some_ne_none q⟩

/-- Settles O44: RESET and the step of a reset cycle leave the same registers. -/
theorem resetCyclePerformsResetAlone : Obligations.ResetCyclePerformsResetAlone :=
  fun _ hw hrst => ⟨_, exec_reset_of_wellFormed hw, step_of_reset hw hrst⟩

/-- Settles O45: each reset cycle leaves the reset values with its own levels, whatever the cycles before it left. -/
theorem heldResetKeepsTheLastLevels : Obligations.HeldResetKeepsTheLastLevels := by
  intro s held last later hw hin hheld hlast
  induction held generalizing s with
  | nil =>
    have hcur : currentInput s = last := currentInput_of_cons hin
    have hstep := step_of_reset hw (by rw [isReset, hcur, hlast])
    refine ⟨_, by rw [List.length_nil, run_succ, hstep]; rfl, by rw [advance_regs, hcur], ?_⟩
    rw [advance_inputs, hin]
    rfl
  | cons i held ih =>
    obtain ⟨hrst, hrest⟩ := List.forall_mem_cons.mp hheld
    have hcur : currentInput s = i := currentInput_of_cons hin
    obtain ⟨u, hstep⟩ : ∃ u, step s = .next u := ⟨_, step_of_reset hw (by rw [isReset, hcur, hrst])⟩
    have hin' : u.inputs = held ++ last :: later := by rw [step_inputs hstep, hin]; rfl
    obtain ⟨t, hrun, hregs, hlater⟩ := ih u (step_params hstep ▸ hw) hin' hrest
    exact ⟨t, by rw [List.length_cons, run_succ, hstep, andThen_next, hrun], step_params hstep ▸ hregs, hlater⟩

/-! ### The three rows -/

theorem selectRows_of_decodeWord {p : Params} {r : Regs} {i : Input} {c m x : Instr}
    (hc : decodeWord .ctr (ctrWord p r i) = .ok c) (hm : decodeWord .mode (modeWord r i) = .ok m)
    (hx : decodeWord .mux (muxWord p r i) = .ok x) : selectRows p r i = .ok ⟨c, m, x⟩ := by
  simp only [selectRows, hc, hm, hx]
  rfl

/-- Settles O48: the effect of the cycle is the merged writes of the rows that the words decode to, or the outcome of
the row that RSTW decodes to. -/
theorem stepRunsTheDecodedRows : Obligations.StepRunsTheDecodedRows := by
  refine ⟨fun s r c m x sc sm sx rc rm rx h hrst hc hm hx hexecc hexecm hexecx hrc hrm hrx => ?_,
    fun s t i hi hexec => ?_⟩
  · have heffect : cycleEffect s = .next (mergeFamilies s sc sm sx) := by
      rw [cycleEffect_of_not_rst hrst, checked_ready h]
      exact runSelected_eq_next.mpr ⟨_, selectRows_of_decodeWord hc hm hx,
        runRows_eq_next.mpr ⟨sc, sm, sx, hexecc, hexecm, hexecx, rfl⟩⟩
    rw [step_eq_next.mpr ⟨_, heffect, rfl⟩, ← mergeFamilies_regs s sc sm sx rc rm rx hrc hrm hrx]
    rfl
  · have heffect : cycleEffect s = .next t := by
      rw [cycleEffect, hi]
      exact hexec
    exact step_eq_next.mpr ⟨t, heffect, rfl⟩

/-- What a display row writes leaves the state ready. -/
theorem ready_putDisplay {s : State} {r : Regs} {d : DisplayRegs} (h : Ready s r)
    (hd : displayNext s.params r = .ok d) : Ready (s.putDisplay r d) { r with disp := d } := by
  obtain ⟨hvalid, hacc, -, -⟩ := ready_inRange h
  obtain ⟨hw, -, hlegal⟩ := h
  obtain ⟨c, hc⟩ := counterNext_ok s.params r default
  obtain ⟨hlegal', -⟩ := regsNext_inRange hlegal (regsNext_eq_ok.mpr ⟨c, d, hc, hd, rfl⟩)
  obtain ⟨-, -, hcnt', hsnap'⟩ := checkLegal_eq_none.mp hlegal'
  exact ⟨hw, rfl, checkLegal_eq_none.mpr ⟨hvalid, hacc, hcnt', hsnap'⟩⟩

/-- What a counter row writes leaves the state ready. -/
theorem ready_putCounter {s : State} {r : Regs} {c : CounterRegs} {i : Input} (h : Ready s r)
    (hc : counterNext s.params r i = .ok c) : Ready (s.putCounter r c) { r with ctr := c } := by
  obtain ⟨hvalid, hacc, hcnt, hsnap⟩ := ready_inRange h
  obtain ⟨hvalid', hacc'⟩ := counterNext_inRange hvalid hacc hc
  obtain ⟨hw, -, -⟩ := h
  exact ⟨hw, rfl, checkLegal_eq_none.mpr ⟨hvalid', hacc', hcnt, hsnap⟩⟩

/-- Settles O50: the counter row reads nothing that the display row wrote, and the mode row nothing that the two wrote,
so each selects and writes what it does in the cycle. -/
theorem rowsInReaderOrderGiveTheSameCycle : Obligations.RowsInReaderOrderGiveTheSameCycle := by
  intro s r rows h hrst hrows
  rw [selectRows_of_not_rst s.params r hrst] at hrows
  cases hrows
  rw [runRows, exec_muxRow h, exec_ctrRow h, exec_modeRow h]
  cases hd : displayNext s.params r with
  | error f => rfl
  | ok d =>
    obtain ⟨c, hc⟩ := counterNext_ok s.params r (currentInput s)
    have h₁ := ready_putDisplay h hd
    have h₂ := ready_putCounter (i := currentInput s) h₁ hc
    have hctr := exec_ctrRow h₁ (currentInput s)
    have hmode := exec_modeRow h₂ (currentInput s)
    change exec (ctrRow s.params r (currentInput s)) _ = writeBack (counterNext s.params r (currentInput s)) _ at hctr
    change exec (modeRow r (currentInput s)) _ = _ at hmode
    rw [hc] at hctr ⊢
    simp only [writeBack_ok, andThen_next, hctr, hmode]
    rfl

end Sys2Proof.Proofs
end
